-- ==== Sys2Proof/Word.lean ====
section
/-! DEFINITION. The value types of the block (00_scope R5): a byte, a CPU address, and the two numeric operands an
operation carries. -/

namespace Sys2Proof

/-- A byte: unsigned, bits 7 down to 0 (R5). -/
abbrev Byte := BitVec 8

/-- A CPU address: unsigned, 16 bits (R5, R50). -/
abbrev Addr := BitVec 16

/-- A flash offset as an operand of an operation. An offset is a natural (R5); inside the machine it is used as one.
DESIGN CHOICE (log 13, safe): the operand is 32 bits wide. -/
abbrev Offset := BitVec 32

/-- The host's cycle counter as an operand of a read (00_scope 5.3). It is a natural of which only bit 1 is observed.
DESIGN CHOICE (log 13, safe): the operand is 32 bits wide. -/
abbrev Cycle := BitVec 32

end Sys2Proof
end

