-- ==== Sys2Proof/Syntax.lean ====
section
/-! DEFINITION. The operations of the block: one constructor of `Instr` for each row of spec/opcode_table.json, in the
table's order (30_encoding R80, R91). -/

namespace Sys2Proof

/-- The seven CPU windows (20_memory R56). RAM123 is the Final Expansion's BLK0. -/
inductive Window
  | ram123 | blk1 | blk2 | blk3 | blk5 | io2 | io3
  deriving DecidableEq, Repr, Inhabited

/-- The direction of an access (43_bank_contract R182). -/
inductive Direction
  | load | store
  deriving DecidableEq, Repr, Inhabited

/-- The three kinds of reset (70_reset R360). -/
inductive ResetKind
  | powerOn | hardware | software
  deriving DecidableEq, Repr, Inhabited

/-- Whose call an operation is. -/
inductive Issuer
  /-- The host: what crosses the boundary of the block (60_exceptions R353). -/
  | host
  /-- The attached controller, which calls its own chip inside C.read, C.write and C.reset (43_bank_contract R184, R185,
  R193). -/
  | controller
  deriving DecidableEq, Repr, Inhabited

/-- One access to a configuration register: a load carries the host inputs of a read, a store those of a write
(00_scope 5.3, R180). A register image is "a byte stored in, or read from" the register (R80). -/
inductive Access
  | load (busLast : Byte) (cyc : Cycle)
  | store (b : Byte) (rmw : Bool)
  deriving DecidableEq, Repr, Inhabited

/-- Every operation of spec/opcode_table.json. -/
inductive Instr
  -- FBUS: bus operations on the FlashChip and on the controller (R80)
  | fReset
  | fRead (a : Offset) (cyc : Cycle)
  | fStore (a : Offset) (b : Byte)
  | fStoreRmw (a : Offset) (b : Byte)
  | fPeek (a : Offset)
  | cRead (addr : Addr) (busLast : Byte) (cyc : Cycle)
  | cWrite (addr : Addr) (b : Byte) (rmw : Bool)
  | cConfigRead (addr : Addr) (busLast : Byte) (cyc : Cycle)
  | cConfigWrite (addr : Addr) (b : Byte) (rmw : Bool)
  | cReset (kind : ResetKind)
  -- FCMD: one flash command cycle (R81, R83, R85); where the row fixes the data byte the operand is the offset alone
  | unlock1 (a : Offset)
  | readIgnore (a : Offset) (b : Byte)
  | unlock2 (a : Offset)
  | magic1Abort (a : Offset) (b : Byte)
  | autoselect (a : Offset)
  | programSetup (a : Offset)
  | eraseSetup (a : Offset)
  | magic2Abort (a : Offset) (b : Byte)
  | programData (a : Offset) (b : Byte)
  | eraseUnlock1 (a : Offset)
  | eraseMagic1Abort (a : Offset) (b : Byte)
  | eraseUnlock2 (a : Offset)
  | eraseMagic2Abort (a : Offset) (b : Byte)
  | chipErase (a : Offset)
  | sectorErase (a : Offset)
  | eraseSelectAbort (a : Offset) (b : Byte)
  | eraseSuspend (a : Offset)
  | sectorEraseIgnore (a : Offset) (b : Byte)
  | eraseResume (a : Offset)
  | sectorEraseSuspendIgnore (a : Offset) (b : Byte)
  | resetCmdAutoselect (a : Offset)
  | autoselectIgnore (a : Offset) (b : Byte)
  | resetCmdError (a : Offset)
  | byteProgramErrorIgnore (a : Offset) (b : Byte)
  | byteProgramHappeningIgnore (a : Offset) (b : Byte)
  | chipEraseIgnore (a : Offset) (b : Byte)
  -- CREG: one access to a configuration register (R89)
  | umRegs0 (acc : Access)
  | umRegs1 (acc : Access)
  | umRegs2 (acc : Access)
  | umRegs3 (acc : Access)
  | umRegs4 (acc : Access)
  | umRegs5 (acc : Access)
  | umRegs6 (acc : Access)
  | umRegs7 (acc : Access)
  | umRegs8 (acc : Access)
  | umRegs9 (acc : Access)
  | umRegs10 (acc : Access)
  | umRegs11 (acc : Access)
  | umRegs12 (acc : Access)
  | umRegs13 (acc : Access)
  | umRegs14 (acc : Access)
  | umRegs15 (acc : Access)
  | feRegA (addr : Addr) (acc : Access)
  | feRegB (addr : Addr) (acc : Access)
  | mcBankLow (addr : Addr) (b : Byte) (rmw : Bool)
  | mcBankHigh (addr : Addr) (b : Byte) (rmw : Bool)
  | mcControl (addr : Addr) (b : Byte) (rmw : Bool)
  | vfpBankReg (addr : Addr) (acc : Access)
  | vfpCfgReg (addr : Addr) (acc : Access)
  deriving DecidableEq, Repr

end Sys2Proof
end

