-- ==== Sys2Proof/Config.lean ====
section
/-! DEFINITION. The parameters of the block that 00_scope section 5 leaves OPEN: their types, the defaults the spec
gives, and the two that are functions. A parameter is data fixed at attach and held beside the state it governs, so a
statement over all states holds for every value of it (log 6, DESIGN CHOICE, safe). -/

namespace Sys2Proof

/-- The two masking schemes of the unlock addresses (00_scope 5.1): A has mask 0x7FFF, B has mask 0x7FF. -/
inductive Scheme
  | a | b
  deriving DecidableEq, Repr, Inhabited

/-- The immutable descriptor of one flash part (00_scope 5.1). The size is `2 ^ sizeLog` bytes, a power of two as D4
requires (log 14). -/
structure Geometry where
  manufacturerId : Byte
  deviceId : Byte
  sizeLog : Nat
  scheme : Scheme
  magic1Addr : Nat
  magic2Addr : Nat
  deriving DecidableEq, Repr, Inhabited

/-- The seven per-window base offsets UM_BASE (44_ultimem R218). -/
structure WindowBases where
  ram123 : Nat
  blk1 : Nat
  blk2 : Nat
  blk3 : Nat
  blk5 : Nat
  io2 : Nat
  io3 : Nat
  deriving DecidableEq, Repr, Inhabited

/-- A request to invert address lines 13 and 14 of an offset (20_memory R62). -/
structure LineInversion where
  a13 : Bool
  a14 : Bool
  deriving DecidableEq, Repr, Inhabited

/-- Which function UM_INV is (44_ultimem R219): the spec's default, no inversion, or some other function, of which
nothing is known but its number (log 7). -/
inductive UmInversion
  | none
  | other (k : Nat)
  deriving DecidableEq, Repr, Inhabited

/-- The OPEN parameters of an UltiMem controller (00_scope 5.2). -/
structure UmParams where
  wmask : Vector Byte 16
  rmask : Vector Byte 16
  resetRegs : Vector Byte 16
  base : WindowBases
  inversion : UmInversion
  deriving DecidableEq, Repr

/-- The modes of the Final Expansion, in the spec's numbering 0 to 7 (45_final_expansion R241). -/
inductive FeMode
  | start | flash | superRom | romRam | ram1 | superRam | ram2 | reserved
  deriving DecidableEq, Repr, Inhabited

/-- The five blocks of the Final Expansion (R247). -/
inductive FeBlock
  | blk0 | blk1 | blk2 | blk3 | blk5
  deriving DecidableEq, Repr, Inhabited

/-- One cell of FE_MODE_TABLE (R249): nothing, a bank of flash, a bank of RAM, a read-only bank of RAM. -/
inductive FeCell
  | off
  | flashBank (k : Nat)
  | ramBank (k : Nat)
  | ramBankRO (k : Nat)
  deriving DecidableEq, Repr, Inhabited

/-- Which table FE_MODE_TABLE is (R249): the spec's default (R250), or some other table, of which nothing is known but
its number and what the spec requires of every table (log 7). -/
inductive FeTable
  | standard
  | other (k : Nat)
  deriving DecidableEq, Repr, Inhabited

/-- UM_INV where it is not the spec's default. A free value: no body, so nothing can be proved of it but what holds of
every function (log 7). -/
opaque Config.umInversion : Nat → Vector Byte 16 → LineInversion

/-- FE_MODE_TABLE where it is not the spec's default, before the spec's own constraints on every table are applied. A
free value (log 7). -/
opaque Config.feModeTable : Nat → FeMode → FeBlock → Bool → Nat → Direction → FeCell

/-- What a byte of any buffer that is not listed reads as: 0xFF, the erased flash byte (70_reset R362, R163). For RAM,
NVRAM and ROM it is a DESIGN CHOICE, unsafe (log 5): the spec gives them no content. -/
def Config.unlisted : Byte := 0xFF

/-- Sectors are 64 KiB for every geometry (00_scope 5.1, R164). -/
def Config.sectorSize : Nat := 0x10000

/-- The default geometry of scheme A, 512 KiB: the Final Expansion's flash (00_scope 5.1). -/
def Config.feGeometry : Geometry := ⟨0x01, 0xA4, 19, .a, 0x5555, 0x2AAA⟩

/-- The default geometry of the VIC Flash Plugin's flash: scheme B, 4 MiB (00_scope 5.1). -/
def Config.vfpGeometry : Geometry := ⟨0x01, 0xA4, 22, .b, 0x555, 0x2AA⟩

/-- The default geometry of UltiMem's flash: scheme B, 16 MiB (00_scope 5.1). -/
def Config.umGeometry : Geometry := ⟨0x01, 0xA4, 24, .b, 0x555, 0x2AA⟩

/-- The default mask table of the UltiMem registers, the same for reads and writes (R214). -/
def Config.umMasks : Vector Byte 16 :=
  #v[0x80, 0x3F, 0xFF, 0x00, 0xFF, 0x07, 0xFF, 0x07, 0xFF, 0x07, 0xFF, 0x07, 0xFF, 0x07, 0xFF, 0x07]

/-- The default UM_RESET_REGS (R366): `regs[2] = 0x40`, every other register 0. -/
def Config.umResetRegs : Vector Byte 16 :=
  #v[0x00, 0x00, 0x40, 0x00, 0x00, 0x00, 0x00, 0x00, 0x00, 0x00, 0x00, 0x00, 0x00, 0x00, 0x00, 0x00]

/-- The default parameters of UltiMem (00_scope 5.2, R214, R218, R219, R366). -/
def Config.umParams : UmParams :=
  ⟨Config.umMasks, Config.umMasks, Config.umResetRegs, ⟨0, 0, 0, 0, 0, 0, 0⟩, .none⟩

/-- UM_RAM_SIZE = 0x100000 (R20), FE_RAM_SIZE = 0x80000 (R22), MC_RAM_SIZE = 0x8000, MC_NVRAM_SIZE = 0x2000,
MC_ROM_SIZE = 0x200000 (R280), VFP_RAM_SIZE = 0x8000 (R26), each as its power of two. -/
def Config.umRamLog : Nat := 20
def Config.feRamLog : Nat := 19
def Config.mcRamLog : Nat := 15
def Config.mcNvramLog : Nat := 13
def Config.mcRomLog : Nat := 21
def Config.vfpRamLog : Nat := 15

end Sys2Proof
end

