-- ==== Sys2Proof/WellFormed.lean ====
section
/-! DEFINITION. What makes an operation one of its row: the CPU address of a register row is an address of that
register, and the data byte of a default command-cycle row is not one that an earlier row of the same state takes at
every address. Whether a row's state and address class hold depends on the machine and is not checked here (log 9). -/

namespace Sys2Proof

/-- An address in IO3, 0x9C00 to 0x9FFF (R56). -/
def Addr.inIo3 (addr : Addr) : Bool := 0x9C00 ≤ addr.toNat && addr.toNat ≤ 0x9FFF

/-- An address in IO2, 0x9800 to 0x9BFF (R56). -/
def Addr.inIo2 (addr : Addr) : Bool := 0x9800 ≤ addr.toNat && addr.toNat ≤ 0x9BFF

/-- The checks an operation passes to be one of its row. -/
def Instr.wellFormed : Instr → Bool
  -- R136 takes 0x30 at every address, so ERASE_SELECT.abort never carries it
  | .eraseSelectAbort _ b => b != 0x30
  -- R138, R140, R142, R144 take their byte at every address
  | .sectorEraseIgnore _ b => b != 0xB0
  | .sectorEraseSuspendIgnore _ b => b != 0x30
  | .autoselectIgnore _ b => b != 0xF0
  | .byteProgramErrorIgnore _ b => b != 0xF0
  -- R244: register A at `addr & 3 = 2`, register B at `addr & 3 = 3`, throughout IO3
  | .feRegA addr _ => addr.inIo3 && addr.extractLsb' 0 2 == 2#2
  | .feRegB addr _ => addr.inIo3 && addr.extractLsb' 0 2 == 3#2
  -- R284: an IO3 write with `addr & 0x180` 0x100 (0x180 writes both banks), 0x080 (or 0x180), 0x180
  | .mcBankLow addr _ _ => addr.inIo3 && addr.getLsbD 8
  | .mcBankHigh addr _ _ => addr.inIo3 && addr.getLsbD 7
  | .mcControl addr _ _ => addr.inIo3 && addr.getLsbD 8 && addr.getLsbD 7
  -- R313: the bank register at even, the configuration register at odd addresses of IO2
  | .vfpBankReg addr _ => addr.inIo2 && !addr.getLsbD 0
  | .vfpCfgReg addr _ => addr.inIo2 && addr.getLsbD 0
  | .fReset | .fRead _ _ | .fStore _ _ | .fStoreRmw _ _ | .fPeek _ | .cRead _ _ _ | .cWrite _ _ _
  | .cConfigRead _ _ _ | .cConfigWrite _ _ _ | .cReset _ => true
  | .unlock1 _ | .readIgnore _ _ | .unlock2 _ | .magic1Abort _ _ | .autoselect _ | .programSetup _ | .eraseSetup _
  | .magic2Abort _ _ | .programData _ _ | .eraseUnlock1 _ | .eraseMagic1Abort _ _ | .eraseUnlock2 _
  | .eraseMagic2Abort _ _ | .chipErase _ | .sectorErase _ | .eraseSuspend _ | .eraseResume _
  | .resetCmdAutoselect _ | .resetCmdError _ | .byteProgramHappeningIgnore _ _ | .chipEraseIgnore _ _ => true
  | .umRegs0 _ | .umRegs1 _ | .umRegs2 _ | .umRegs3 _ | .umRegs4 _ | .umRegs5 _ | .umRegs6 _ | .umRegs7 _
  | .umRegs8 _ | .umRegs9 _ | .umRegs10 _ | .umRegs11 _ | .umRegs12 _ | .umRegs13 _ | .umRegs14 _ | .umRegs15 _ => true

end Sys2Proof
end

