-- ==== Sys2Proof/Decode.lean ====
section
/-! DEFINITION. How an operation is written as bytes for the inbox, and read back. The spec gives an operation no bits but
the data byte of a command cycle (30_encoding R80, R81, R83), which is byte 0 here; the rest of the layout is the
model's own (log 1, DESIGN CHOICE, safe): twelve bytes, each multi-byte field with its low byte first.

| bytes | field |
|---|---|
| 0 | the data byte (for a command cycle its command byte) |
| 1 | the selector: 0 for the first row of the table that lists the command byte in byte 0, else the row's number, 1 to 59 |
| 2 to 5 | the flash offset, or the CPU address in its low 16 bits |
| 6 to 9 | the cycle counter |
| 10 | the last bus byte |
| 11 | bit 0: a store to a register; bit 1: read-modify-write; for C.reset the kind, 0, 1, 2 |

A field that an operation does not use is 0. -/

namespace Sys2Proof

/-- Why bytes of the inbox are no operation. The words are the model's own (log 1). -/
inductive DecodeError
  /-- Fewer bytes than one operation takes. Safe: nothing runs. -/
  | truncated
  /-- The selector byte names no row of the table, or a row that has selector 0. Safe: nothing runs. -/
  | reservedSelector
  /-- Selector 0 with a byte that is none of the nine command bytes (30_encoding R83). Safe: nothing runs. -/
  | notACommandByte
  /-- A field that the operation does not use is not zero, or a field holds a reserved value. Safe: nothing runs. -/
  | reservedOperandBits
  /-- The operands are not those of the row (`Instr.wellFormed`). Safe: nothing runs. -/
  | illFormed
  deriving DecidableEq, Repr

/-- The fields of one encoded operation. -/
structure HostWord where
  data : Byte
  selector : Byte
  off : Offset
  cyc : Cycle
  busLast : Byte
  flags : Byte
  deriving DecidableEq, Repr

/-- The CPU address in the low half of the offset field. -/
def HostWord.addr (w : HostWord) : Addr := w.off.extractLsb' 0 16

/-- The read-modify-write flag. -/
def HostWord.rmw (w : HostWord) : Bool := w.flags.getLsbD 1

/-- The access to a register: bit 0 of the flags tells a store from a load. -/
def HostWord.access (w : HostWord) : Access :=
  if w.flags.getLsbD 0 then .store w.data w.rmw else .load w.busLast w.cyc

/-- The kind of a reset. -/
def HostWord.kind (w : HostWord) : ResetKind :=
  match w.flags.toNat with
  | 0 => .powerOn
  | 1 => .hardware
  | _ => .software

/-- The first row of the table that lists a command byte (R83). -/
def decodeCommand (w : HostWord) : Except DecodeError Instr :=
  match w.data.toNat with
  | 0xAA => .ok (.unlock1 w.off)
  | 0x55 => .ok (.unlock2 w.off)
  | 0x90 => .ok (.autoselect w.off)
  | 0xA0 => .ok (.programSetup w.off)
  | 0x80 => .ok (.eraseSetup w.off)
  | 0x10 => .ok (.chipErase w.off)
  | 0x30 => .ok (.sectorErase w.off)
  | 0xB0 => .ok (.eraseSuspend w.off)
  | 0xF0 => .ok (.resetCmdAutoselect w.off)
  | _ => .error .notACommandByte

/-- The row a selector names, with its operands. -/
def decodeRow (w : HostWord) : Except DecodeError Instr :=
  match w.selector.toNat with
  | 0 => decodeCommand w
  | 1 => .ok (.fReset)
  | 2 => .ok (.fRead w.off w.cyc)
  | 3 => .ok (.fStore w.off w.data)
  | 4 => .ok (.fStoreRmw w.off w.data)
  | 5 => .ok (.fPeek w.off)
  | 6 => .ok (.cRead w.addr w.busLast w.cyc)
  | 7 => .ok (.cWrite w.addr w.data w.rmw)
  | 8 => .ok (.cConfigRead w.addr w.busLast w.cyc)
  | 9 => .ok (.cConfigWrite w.addr w.data w.rmw)
  | 10 => .ok (.cReset w.kind)
  | 12 => .ok (.readIgnore w.off w.data)
  | 14 => .ok (.magic1Abort w.off w.data)
  | 18 => .ok (.magic2Abort w.off w.data)
  | 19 => .ok (.programData w.off w.data)
  | 20 => .ok (.eraseUnlock1 w.off)
  | 21 => .ok (.eraseMagic1Abort w.off w.data)
  | 22 => .ok (.eraseUnlock2 w.off)
  | 23 => .ok (.eraseMagic2Abort w.off w.data)
  | 26 => .ok (.eraseSelectAbort w.off w.data)
  | 28 => .ok (.sectorEraseIgnore w.off w.data)
  | 29 => .ok (.eraseResume w.off)
  | 30 => .ok (.sectorEraseSuspendIgnore w.off w.data)
  | 32 => .ok (.autoselectIgnore w.off w.data)
  | 33 => .ok (.resetCmdError w.off)
  | 34 => .ok (.byteProgramErrorIgnore w.off w.data)
  | 35 => .ok (.byteProgramHappeningIgnore w.off w.data)
  | 36 => .ok (.chipEraseIgnore w.off w.data)
  | 37 => .ok (.umRegs0 w.access)
  | 38 => .ok (.umRegs1 w.access)
  | 39 => .ok (.umRegs2 w.access)
  | 40 => .ok (.umRegs3 w.access)
  | 41 => .ok (.umRegs4 w.access)
  | 42 => .ok (.umRegs5 w.access)
  | 43 => .ok (.umRegs6 w.access)
  | 44 => .ok (.umRegs7 w.access)
  | 45 => .ok (.umRegs8 w.access)
  | 46 => .ok (.umRegs9 w.access)
  | 47 => .ok (.umRegs10 w.access)
  | 48 => .ok (.umRegs11 w.access)
  | 49 => .ok (.umRegs12 w.access)
  | 50 => .ok (.umRegs13 w.access)
  | 51 => .ok (.umRegs14 w.access)
  | 52 => .ok (.umRegs15 w.access)
  | 53 => .ok (.feRegA w.addr w.access)
  | 54 => .ok (.feRegB w.addr w.access)
  | 55 => .ok (.mcBankLow w.addr w.data w.rmw)
  | 56 => .ok (.mcBankHigh w.addr w.data w.rmw)
  | 57 => .ok (.mcControl w.addr w.data w.rmw)
  | 58 => .ok (.vfpBankReg w.addr w.access)
  | 59 => .ok (.vfpCfgReg w.addr w.access)
  | _ => .error .reservedSelector

/-- The CPU address as the offset field. -/
def addrField (addr : Addr) : Offset := addr.setWidth 32

/-- The flags of a write. -/
def rmwFlag (rmw : Bool) : Byte := if rmw then 2 else 0

/-- The flags of a reset. -/
def kindFlag : ResetKind → Byte
  | .powerOn => 0
  | .hardware => 1
  | .software => 2

/-- The word of a register access. -/
def accessWord (selector : Byte) (off : Offset) : Access → HostWord
  | .load busLast cyc => ⟨0, selector, off, cyc, busLast, 0⟩
  | .store b rmw => ⟨b, selector, off, 0, 0, 1 ||| rmwFlag rmw⟩

/-- The word of an operation. -/
def encodeWord : Instr → HostWord
  | .fReset => ⟨0, 0x01, 0, 0, 0, 0⟩
  | .fRead a cyc => ⟨0, 0x02, a, cyc, 0, 0⟩
  | .fStore a b => ⟨b, 0x03, a, 0, 0, 0⟩
  | .fStoreRmw a b => ⟨b, 0x04, a, 0, 0, 0⟩
  | .fPeek a => ⟨0, 0x05, a, 0, 0, 0⟩
  | .cRead addr busLast cyc => ⟨0, 0x06, addrField addr, cyc, busLast, 0⟩
  | .cWrite addr b rmw => ⟨b, 0x07, addrField addr, 0, 0, rmwFlag rmw⟩
  | .cConfigRead addr busLast cyc => ⟨0, 0x08, addrField addr, cyc, busLast, 0⟩
  | .cConfigWrite addr b rmw => ⟨b, 0x09, addrField addr, 0, 0, rmwFlag rmw⟩
  | .cReset kind => ⟨0, 0x0A, 0, 0, 0, kindFlag kind⟩
  | .unlock1 a => ⟨0xAA, 0x00, a, 0, 0, 0⟩
  | .readIgnore a b => ⟨b, 0x0C, a, 0, 0, 0⟩
  | .unlock2 a => ⟨0x55, 0x00, a, 0, 0, 0⟩
  | .magic1Abort a b => ⟨b, 0x0E, a, 0, 0, 0⟩
  | .autoselect a => ⟨0x90, 0x00, a, 0, 0, 0⟩
  | .programSetup a => ⟨0xA0, 0x00, a, 0, 0, 0⟩
  | .eraseSetup a => ⟨0x80, 0x00, a, 0, 0, 0⟩
  | .magic2Abort a b => ⟨b, 0x12, a, 0, 0, 0⟩
  | .programData a b => ⟨b, 0x13, a, 0, 0, 0⟩
  | .eraseUnlock1 a => ⟨0xAA, 0x14, a, 0, 0, 0⟩
  | .eraseMagic1Abort a b => ⟨b, 0x15, a, 0, 0, 0⟩
  | .eraseUnlock2 a => ⟨0x55, 0x16, a, 0, 0, 0⟩
  | .eraseMagic2Abort a b => ⟨b, 0x17, a, 0, 0, 0⟩
  | .chipErase a => ⟨0x10, 0x00, a, 0, 0, 0⟩
  | .sectorErase a => ⟨0x30, 0x00, a, 0, 0, 0⟩
  | .eraseSelectAbort a b => ⟨b, 0x1A, a, 0, 0, 0⟩
  | .eraseSuspend a => ⟨0xB0, 0x00, a, 0, 0, 0⟩
  | .sectorEraseIgnore a b => ⟨b, 0x1C, a, 0, 0, 0⟩
  | .eraseResume a => ⟨0x30, 0x1D, a, 0, 0, 0⟩
  | .sectorEraseSuspendIgnore a b => ⟨b, 0x1E, a, 0, 0, 0⟩
  | .resetCmdAutoselect a => ⟨0xF0, 0x00, a, 0, 0, 0⟩
  | .autoselectIgnore a b => ⟨b, 0x20, a, 0, 0, 0⟩
  | .resetCmdError a => ⟨0xF0, 0x21, a, 0, 0, 0⟩
  | .byteProgramErrorIgnore a b => ⟨b, 0x22, a, 0, 0, 0⟩
  | .byteProgramHappeningIgnore a b => ⟨b, 0x23, a, 0, 0, 0⟩
  | .chipEraseIgnore a b => ⟨b, 0x24, a, 0, 0, 0⟩
  | .umRegs0 acc => accessWord 0x25 (addrField 0x9FF0) acc
  | .umRegs1 acc => accessWord 0x26 (addrField 0x9FF1) acc
  | .umRegs2 acc => accessWord 0x27 (addrField 0x9FF2) acc
  | .umRegs3 acc => accessWord 0x28 (addrField 0x9FF3) acc
  | .umRegs4 acc => accessWord 0x29 (addrField 0x9FF4) acc
  | .umRegs5 acc => accessWord 0x2A (addrField 0x9FF5) acc
  | .umRegs6 acc => accessWord 0x2B (addrField 0x9FF6) acc
  | .umRegs7 acc => accessWord 0x2C (addrField 0x9FF7) acc
  | .umRegs8 acc => accessWord 0x2D (addrField 0x9FF8) acc
  | .umRegs9 acc => accessWord 0x2E (addrField 0x9FF9) acc
  | .umRegs10 acc => accessWord 0x2F (addrField 0x9FFA) acc
  | .umRegs11 acc => accessWord 0x30 (addrField 0x9FFB) acc
  | .umRegs12 acc => accessWord 0x31 (addrField 0x9FFC) acc
  | .umRegs13 acc => accessWord 0x32 (addrField 0x9FFD) acc
  | .umRegs14 acc => accessWord 0x33 (addrField 0x9FFE) acc
  | .umRegs15 acc => accessWord 0x34 (addrField 0x9FFF) acc
  | .feRegA addr acc => accessWord 0x35 (addrField addr) acc
  | .feRegB addr acc => accessWord 0x36 (addrField addr) acc
  | .mcBankLow addr b rmw => ⟨b, 0x37, addrField addr, 0, 0, rmwFlag rmw⟩
  | .mcBankHigh addr b rmw => ⟨b, 0x38, addrField addr, 0, 0, rmwFlag rmw⟩
  | .mcControl addr b rmw => ⟨b, 0x39, addrField addr, 0, 0, rmwFlag rmw⟩
  | .vfpBankReg addr acc => accessWord 0x3A (addrField addr) acc
  | .vfpCfgReg addr acc => accessWord 0x3B (addrField addr) acc

/-- The operation a word stands for: the row, provided no other field is set and the operands are the row's. -/
def decodeWord (w : HostWord) : Except DecodeError Instr :=
  match decodeRow w with
  | .error e => .error e
  | .ok i =>
    if encodeWord i ≠ w then .error .reservedOperandBits
    else if i.wellFormed = false then .error .illFormed
    else .ok i

/-- The four bytes of a 32-bit field, low byte first. -/
def fieldBytes (x : BitVec 32) : List Byte :=
  [x.extractLsb' 0 8, x.extractLsb' 8 8, x.extractLsb' 16 8, x.extractLsb' 24 8]

/-- A 32-bit field of four bytes, low byte first. -/
def fieldOfBytes (b0 b1 b2 b3 : Byte) : BitVec 32 := b3 ++ b2 ++ b1 ++ b0

/-- The twelve bytes of a word. -/
def HostWord.bytes (w : HostWord) : List Byte :=
  w.data :: w.selector :: (fieldBytes w.off ++ fieldBytes w.cyc ++ [w.busLast, w.flags])

/-- The bytes of an operation as the host issues it. -/
def encode (i : Instr) : List Byte := (encodeWord i).bytes

/-- The operation at the front of the inbox and the bytes after it. -/
def decode (bs : List Byte) : Except DecodeError (Instr × List Byte) :=
  match bs with
  | d :: sel :: a0 :: a1 :: a2 :: a3 :: c0 :: c1 :: c2 :: c3 :: bus :: fl :: rest =>
    match decodeWord ⟨d, sel, fieldOfBytes a0 a1 a2 a3, fieldOfBytes c0 c1 c2 c3, bus, fl⟩ with
    | .error e => .error e
    | .ok i => .ok (i, rest)
  | _ => .error .truncated

/-- Whose call each row of the table is: R353 gives the host C.read, C.write (of which C.config_read, C.config_write and
the register rows are cases, R180), C.reset and F.peek; F.reset, F.read, F.store and the command cycles are calls of the
controller on its chip (log 20). -/
def Instr.issuer : Instr → Issuer
  | .fPeek _ | .cRead _ _ _ | .cWrite _ _ _ | .cConfigRead _ _ _ | .cConfigWrite _ _ _ | .cReset _ | .umRegs0 _
  | .umRegs1 _ | .umRegs2 _ | .umRegs3 _ | .umRegs4 _ | .umRegs5 _ | .umRegs6 _ | .umRegs7 _ | .umRegs8 _ | .umRegs9 _
  | .umRegs10 _ | .umRegs11 _ | .umRegs12 _ | .umRegs13 _ | .umRegs14 _ | .umRegs15 _ | .feRegA _ _ | .feRegB _ _
  | .mcBankLow _ _ _ | .mcBankHigh _ _ _ | .mcControl _ _ _ | .vfpBankReg _ _ | .vfpCfgReg _ _ => .host
  | .fReset | .fRead _ _ | .fStore _ _ | .fStoreRmw _ _ | .unlock1 _ | .readIgnore _ _ | .unlock2 _ | .magic1Abort _ _
  | .autoselect _ | .programSetup _ | .eraseSetup _ | .magic2Abort _ _ | .programData _ _ | .eraseUnlock1 _
  | .eraseMagic1Abort _ _ | .eraseUnlock2 _ | .eraseMagic2Abort _ _ | .chipErase _ | .sectorErase _
  | .eraseSelectAbort _ _ | .eraseSuspend _ | .sectorEraseIgnore _ _ | .eraseResume _ | .sectorEraseSuspendIgnore _ _
  | .resetCmdAutoselect _ | .autoselectIgnore _ _ | .resetCmdError _ | .byteProgramErrorIgnore _ _
  | .byteProgramHappeningIgnore _ _ | .chipEraseIgnore _ _ => .controller

/-- How many bytes one operation takes. -/
def operationLength : Nat := 12

/-- The bytes of an operation whose low `nbits` bits are given and whose other bits are 0. -/
def tableBytes (nbits w : Nat) : List Byte :=
  (List.range operationLength).map fun k => BitVec.ofNat 8 ((w % 2 ^ nbits) >>> (8 * k))

/-- The operation the decoder reads from bits numbered as spec/opcode_table.json numbers them. -/
def decodeTableWord (nbits w : Nat) : Option Instr :=
  match decode (tableBytes nbits w) with
  | .error _ => none
  | .ok (i, _) => some i

end Sys2Proof
end

