-- ==== Sys2Proof/Machine/State.lean ====
section
/-! DEFINITION. The state of the machine as plain data: one attached controller with the buffers and the flash chip it
owns (00_scope R4), the operations the host has issued, and the byte the last operation returned. -/

namespace Sys2Proof.Machine

/-- A byte memory: (address, byte) pairs, addresses strictly rising, no entry equal to `Config.unlisted`, which is what
an unlisted address reads as. -/
abbrev Memory := List Host.Cell

/-- A RAM, NVRAM or ROM buffer of `2 ^ sizeLog` bytes (20_memory R60: every buffer length is a power of two). -/
structure Buffer where
  sizeLog : Nat
  cells : Memory
  deriving DecidableEq, Repr, Inhabited

/-- The thirteen states of the command sequencer (10_state R10). -/
inductive SeqState
  | read | magic1 | magic2 | autoselect | byteProgram | byteProgramHappening | byteProgramError
  | eraseMagic1 | eraseMagic2 | eraseSelect | chipErase | sectorErase | sectorEraseSuspend
  deriving DecidableEq, Repr, Inhabited

/-- A FlashChip: "exactly six fields" (10_state section 1), of which the geometry is immutable. -/
structure FlashChip where
  geometry : Geometry
  state : SeqState
  backing : Memory
  lastProgrammed : Byte
  lastRead : Byte
  dirty : Bool
  deriving DecidableEq, Repr, Inhabited

/-- The UltiMem controller (10_state R20) with its OPEN parameters. -/
structure UltiMem where
  regs : Vector Byte 16
  ram : Buffer
  flash : FlashChip
  params : UmParams
  deriving DecidableEq, Repr

/-- The Final Expansion controller (10_state R22) with its OPEN mode table. -/
structure FinalExpansion where
  regA : Byte
  regB : Byte
  lockBit : Bool
  ram : Buffer
  flash : FlashChip
  table : FeTable
  deriving DecidableEq, Repr

/-- The MegaCart controller (10_state R24); it has no FlashChip. -/
structure MegaCart where
  bankLow : Byte
  bankHigh : Byte
  outputEnable : Bool
  nvramEnable : Bool
  ram : Buffer
  nvram : Buffer
  rom : Buffer
  deriving DecidableEq, Repr

/-- The VIC Flash Plugin controller (10_state R26). -/
structure VicFlash where
  bankReg : Byte
  cfgReg : Byte
  cfgEn : Bool
  ram : Buffer
  flash : FlashChip
  deriving DecidableEq, Repr

/-- The attached controller: one instance of one of the four variants (00_scope R1, R4, 60_exceptions R350). -/
inductive Controller
  | ultiMem (u : UltiMem)
  | finalExpansion (e : FinalExpansion)
  | megaCart (m : MegaCart)
  | vicFlash (v : VicFlash)
  deriving DecidableEq, Repr

/-- The four variants (00_scope R1). -/
inductive Variant
  | ultiMem | finalExpansion | megaCart | vicFlash
  deriving DecidableEq, Repr, Inhabited

/-- The machine never stops with a fault: "The block raises no exception, fault, trap, bus error, wait state or error
code, in any state, for any operation" (60_exceptions R340). The type has no constructor. -/
inductive Fault
  deriving DecidableEq, Repr

/-- Why an operation has no meaning. -/
inductive Refusal
  /-- Raised by an arm of `exec` whose instruction has no meaning yet; none is left. Safe: nothing runs. -/
  | notModelled (mnemonic : String)
  /-- Raised by `step` where the inbox holds no operation (log 1). Safe: the host never issued an operation. -/
  | badWord (e : DecodeError)
  /-- Raised by a FlashChip operation or command cycle at an offset `a >= G.size`: "A call with a >= G.size has no
  meaning; a model refuses it" (R101, R109, R110, D7). Safe: no controller produces it (R63). -/
  | offsetOutOfRange
  /-- Raised by a FlashChip operation or command cycle while a MegaCart is attached: "It has no FlashChip" (46_megacart
  R280; log 12). Safe: there is no chip to act. -/
  | noFlashChip
  /-- Raised by a controller access at an address outside every window of the variant: "a model refuses it (gives it no
  meaning) rather than answer" (20_memory R57, D19). Safe: the host never forwards it. -/
  | outsideWindows
  /-- Raised by `step` where the operation at the front of the inbox is not its caller's: a host with a call that the
  controller makes on its own chip, "The only external mutation path into a buffer is through the controller's
  read/write" (00_scope R4), or a controller with an operation of the host's (60_exceptions R353; log 20). Safe: the host
  has no such operation, and the same operation of its own caller runs. -/
  | notTheCallers
  deriving DecidableEq, Repr

/-- The state of the machine. -/
structure State where
  /-- The attached controller. -/
  ctrl : Controller
  /-- The model's own: the operations the host has issued and the block has not yet carried out (log 2). -/
  inbox : List Byte
  /-- The model's own: the byte the last operation returned to the host, none where it returned none (log 3). -/
  dataOut : Option Byte
  /-- The model's own: whose operation stands at the front of the inbox, the host's but for a call of the attached
  controller on the chip it owns (R4, R353; log 20). -/
  caller : Issuer
  deriving DecidableEq, Repr

/-- The FlashChip right after attach (10_state R16), blank (log 5). -/
def FlashChip.powerOn (g : Geometry) : FlashChip := ⟨g, .read, [], 0x00, 0x00, false⟩

/-- Each variant right after attach with the default parameters (10_state R21, R23, R25, R27), its buffers blank
(log 5): registers and flip-flops at the values of 70_reset R370, column power-on. -/
def Controller.powerOn : Variant → Controller
  | .ultiMem =>
    .ultiMem ⟨Config.umResetRegs, ⟨Config.umRamLog, []⟩, FlashChip.powerOn Config.umGeometry, Config.umParams⟩
  | .finalExpansion =>
    .finalExpansion ⟨0x00, 0x00, true, ⟨Config.feRamLog, []⟩, FlashChip.powerOn Config.feGeometry, .standard⟩
  | .megaCart =>
    .megaCart ⟨0x00, 0x00, false, true, ⟨Config.mcRamLog, []⟩, ⟨Config.mcNvramLog, []⟩, ⟨Config.mcRomLog, []⟩⟩
  | .vicFlash =>
    .vicFlash ⟨0x00, 0x40, true, ⟨Config.vfpRamLog, []⟩, FlashChip.powerOn Config.vfpGeometry⟩

/-- The machine right after attach of a variant, no operation issued. -/
def State.attached (v : Variant) : State := ⟨Controller.powerOn v, [], none, .host⟩

/-- The machine right after reset. DESIGN CHOICE (log 4): the attached cartridge is an UltiMem. -/
def State.reset : State := State.attached .ultiMem

/-- What one operation answers. -/
abbrev Result := Host.Outcome State Fault Refusal

end Sys2Proof.Machine
end

