-- ==== Sys2Proof/Machine/Operands.lean ====
section
/-! DEFINITION. Operand forms: the windows of the CPU address space, the address classes of the command sequencer, and
the composition of a buffer offset (20_memory, 30_encoding R82, R88, 41_flash_commands R120). -/

namespace Sys2Proof

/-- Each window's base offset in the UltiMem table UM_BASE (R218). -/
def WindowBases.ofWindow (t : WindowBases) : Window → Nat
  | .ram123 => t.ram123
  | .blk1 => t.blk1
  | .blk2 => t.blk2
  | .blk3 => t.blk3
  | .blk5 => t.blk5
  | .io2 => t.io2
  | .io3 => t.io3

/-- The size of a flash part in bytes (00_scope 5.1). -/
def Geometry.size (g : Geometry) : Nat := 2 ^ g.sizeLog

/-- The address mask of a masking scheme (00_scope 5.1, R82). -/
def Scheme.mask : Scheme → Nat
  | .a => 0x7FFF
  | .b => 0x7FF

/-- `magic1(a)`: equality after masking (R120, D2). -/
def Geometry.magic1 (g : Geometry) (a : Nat) : Bool := a &&& g.scheme.mask == g.magic1Addr

/-- `magic2(a)` (R120). -/
def Geometry.magic2 (g : Geometry) (a : Nat) : Bool := a &&& g.scheme.mask == g.magic2Addr

end Sys2Proof

namespace Sys2Proof.Machine

/-- The window an address lies in, if any (R56). -/
def windowOf (addr : Addr) : Option Window :=
  let n := addr.toNat
  if 0x0400 ≤ n ∧ n ≤ 0x0FFF then some .ram123
  else if 0x2000 ≤ n ∧ n ≤ 0x3FFF then some .blk1
  else if 0x4000 ≤ n ∧ n ≤ 0x5FFF then some .blk2
  else if 0x6000 ≤ n ∧ n ≤ 0x7FFF then some .blk3
  else if 0xA000 ≤ n ∧ n ≤ 0xBFFF then some .blk5
  else if 0x9800 ≤ n ∧ n ≤ 0x9BFF then some .io2
  else if 0x9C00 ≤ n ∧ n ≤ 0x9FFF then some .io3
  else none

/-- The length of a buffer in bytes (R60). -/
def Buffer.size (b : Buffer) : Nat := 2 ^ b.sizeLog

/-- `mask_len(o, L) = o & (L - 1)` (R60). -/
def maskLen (o len : Nat) : Nat := o &&& (len - 1)

/-- `inv`: bit 13 and bit 14 as the controller requests them (R62). -/
def lineInversion (l : LineInversion) : Nat := (if l.a13 then 0x2000 else 0) ||| (if l.a14 then 0x4000 else 0)

/-- The shared offset formula: add, then XOR, then mask (R61, D15). -/
def compose (addr : Addr) (windowMask bank stride base inv len : Nat) : Nat :=
  maskLen (((addr.toNat &&& windowMask) + bank * stride + base) ^^^ inv) len

/-- The window mask of every variant: the low 13 address bits (R218, R248, R286, R317). -/
def windowMask : Nat := 0x1FFF

/-- Which of a controller's read-write buffers a resolution names (R181). -/
inductive BufferName
  | ram | nvram
  deriving DecidableEq, Repr, Inhabited

/-- The value of `resolve` (43_bank_contract R181): nothing, an offset into flash, into MegaCart's ROM, into a
read-write buffer, or into a buffer whose writes are dropped. -/
inductive Resolution
  | disabled
  | flash (o : Nat)
  | rom (o : Nat)
  | ram (buf : BufferName) (o : Nat)
  | ramReadOnly (buf : BufferName) (o : Nat)
  deriving DecidableEq, Repr, Inhabited

end Sys2Proof.Machine
end

