-- ==== Sys2Proof/Machine/Flags.lean ====
section
/-! DEFINITION. Every computed bit: the status byte of a failed program, the lock predicates, the `cfg_en` latch
(42_flash_program_erase R166, 43_bank_contract R190, 47_vic_flash_plugin R315). -/

namespace Sys2Proof.Machine

/-- `status(F, cyc)`: DQ7 is the complement of bit 7 of the last programmed byte, DQ6 is bit 1 of the host's cycle
counter, DQ5 is 1, bits 4 to 0 are 0 (R87, R166). -/
def statusByte (lastProgrammed : Byte) (cyc : Cycle) : Byte :=
  ((lastProgrammed ^^^ 0x80) &&& 0x80) ||| ((cyc &&& 2).setWidth 8 <<< 5) ||| 0x20

/-- Whether a program of `b` over `old` succeeds: `new == b` for `new = old & b` (R160). -/
def programSucceeds (old b : Byte) : Bool := old &&& b == b

/-- UltiMem's registers-disabled bit (R216). -/
def UltiMem.locked (u : UltiMem) : Bool := (u.regs.get 0).getLsbD 7

/-- The mode field, bits 7:5 of register A, in the spec's numbering (R241). -/
def FinalExpansion.mode (e : FinalExpansion) : FeMode :=
  match (e.regA.extractLsb' 5 3).toNat with
  | 0 => .start
  | 1 => .flash
  | 2 => .superRom
  | 3 => .romRam
  | 4 => .ram1
  | 5 => .superRam
  | 6 => .ram2
  | _ => .reserved

/-- The Final Expansion's lock: the lock bit in mode Start, or the register-off bit (R245). -/
def FinalExpansion.locked (e : FinalExpansion) : Bool :=
  (e.mode == .start && e.lockBit) || e.regB.getLsbD 7

/-- The VIC Flash Plugin's lock: `cfg_en = 0` (R314). -/
def VicFlash.locked (v : VicFlash) : Bool := !v.cfgEn

/-- `locked()` of the attached variant (R190). MegaCart is never locked. -/
def Controller.locked : Controller → Bool
  | .ultiMem u => u.locked
  | .finalExpansion e => e.locked
  | .megaCart _ => false
  | .vicFlash v => v.locked

/-- The value the `cfg_en` latch takes at an accepted register write: the complement of bit 7 of the configuration
register (R315). -/
def cfgEnLatch (cfgReg : Byte) : Bool := !cfgReg.getLsbD 7

/-- The ROM write-protect bit (R312, R318); only the VIC Flash Plugin has one (R185). -/
def Controller.writeProtected : Controller → Bool
  | .vicFlash v => v.cfgReg.getLsbD 6
  | .ultiMem _ | .finalExpansion _ | .megaCart _ => false

end Sys2Proof.Machine
end

