-- ==== Sys2Proof/Machine/Ops.lean ====
section
/-! DEFINITION. The named operations over memory and over a FlashChip: byte read and write, erase, program, the command
sequencer, the chip's bus operations, entry to and exit from the program-error state, and the operations over State
that every meaning is written with. -/

namespace Sys2Proof.Machine

/-! ## Memory -/

/-- The byte at an address; what is not listed reads as `Config.unlisted`. -/
def Memory.byteAt : Memory → Nat → Byte
  | [], _ => Config.unlisted
  | (k, v) :: rest, a => if k = a then v else Memory.byteAt rest a

/-- Put one entry in front of higher addresses, leaving it out where it says what an unlisted address reads as. -/
def Memory.cell (a : Nat) (b : Byte) (rest : Memory) : Memory :=
  if b = Config.unlisted then rest else (a, b) :: rest

/-- Write one byte, keeping the canonical form. -/
def Memory.write : Memory → Nat → Byte → Memory
  | [], a, b => Memory.cell a b []
  | (k, v) :: rest, a, b =>
    if a < k then Memory.cell a b ((k, v) :: rest)
    else if a = k then Memory.cell a b rest
    else (k, v) :: Memory.write rest a b

/-- Fill `len` bytes from `lo` with 0xFF (R163, R164): in the canonical form a byte of 0xFF is not listed. -/
def Memory.erase (m : Memory) (lo len : Nat) : Memory :=
  m.filter fun c => !(decide (lo ≤ c.1) && decide (c.1 < lo + len))

/-- The canonical form: addresses strictly rising, no entry equal to what an unlisted address reads as. -/
abbrev Memory.wf (m : Memory) : Prop :=
  m.Pairwise (fun c d => c.1 < d.1) ∧ ∀ c ∈ m, c.2 ≠ Config.unlisted

/-- Every listed address lies below a length. -/
abbrev Memory.within (m : Memory) (len : Nat) : Prop := ∀ c ∈ m, c.1 < len

/-- A byte of a buffer. -/
def Buffer.byteAt (b : Buffer) (o : Nat) : Byte := Memory.byteAt b.cells o

/-- A buffer with one byte written. -/
def Buffer.write (b : Buffer) (o : Nat) (v : Byte) : Buffer := { b with cells := Memory.write b.cells o v }

/-! ## The FlashChip: program, erase, status (42_flash_program_erase) -/

/-- A byte of the flash array. -/
def FlashChip.byteAt (f : FlashChip) (o : Nat) : Byte := Memory.byteAt f.backing o

/-- The chip in another sequencer state, nothing else changed. -/
def FlashChip.goto (f : FlashChip) (q : SeqState) : FlashChip := { f with state := q }

/-- `program(F, a, b)`: AND-merge, `dirty` set, the asked-for byte latched, whether or not it succeeds (R160). -/
def FlashChip.program (f : FlashChip) (a : Nat) (b : Byte) : FlashChip :=
  { f with backing := Memory.write f.backing a (f.byteAt a &&& b), dirty := true, lastProgrammed := b }

/-- `erase_chip(F)`: every byte of the array to 0xFF (R163). -/
def FlashChip.eraseChip (f : FlashChip) : FlashChip :=
  { f with backing := Memory.erase f.backing 0 f.geometry.size, dirty := true }

/-- The first offset of the 64 KiB sector that holds an offset, `a - (a mod 0x10000)` (R164). -/
def sectorBase (a : Nat) : Nat := a - a % Config.sectorSize

/-- `erase_sector(F, a)` (R164). -/
def FlashChip.eraseSector (f : FlashChip) (a : Nat) : FlashChip :=
  { f with backing := Memory.erase f.backing (sectorBase a) Config.sectorSize, dirty := true }

/-! ## The nearest thing to an exception: the program-error state (60_exceptions R345, R346) -/

/-- Entry to `BYTE_PROGRAM_ERROR`: nothing is saved and there is no vector, only later reads change (R345). The array,
`dirty` and the latch have been written by `program`. -/
def FlashChip.enterProgramError (f : FlashChip) : FlashChip := f.goto .byteProgramError

/-- The exit, by RESET_CMD or by reset: the state becomes `READ` and nothing is restored (R346). -/
def FlashChip.leaveToRead (f : FlashChip) : FlashChip := f.goto .read

/-- The PROGRAM_DATA cycle: program, then `BYTE_PROGRAM_HAPPENING` or the error state (R130). -/
def FlashChip.programCycle (f : FlashChip) (a : Nat) (b : Byte) : FlashChip :=
  if programSucceeds (f.byteAt a) b then (f.program a b).goto .byteProgramHappening
  else (f.program a b).enterProgramError

/-! ## The FlashChip: command sequencer and bus operations (40_flash_bus_ops, 41_flash_commands) -/

/-- `transition(F, a, b)`: state first, then the conditions in the order of R121. -/
def FlashChip.transition (f : FlashChip) (a : Nat) (b : Byte) : FlashChip :=
  match f.state with
  | .read => if f.geometry.magic1 a && b == 0xAA then f.goto .magic1 else f
  | .magic1 => if f.geometry.magic2 a && b == 0x55 then f.goto .magic2 else f.goto .read
  | .magic2 =>
    if f.geometry.magic1 a && b == 0x90 then f.goto .autoselect
    else if f.geometry.magic1 a && b == 0xA0 then f.goto .byteProgram
    else if f.geometry.magic1 a && b == 0x80 then f.goto .eraseMagic1
    else f.goto .read
  | .byteProgram => f.programCycle a b
  | .eraseMagic1 => if f.geometry.magic1 a && b == 0xAA then f.goto .eraseMagic2 else f.goto .read
  | .eraseMagic2 => if f.geometry.magic2 a && b == 0x55 then f.goto .eraseSelect else f.goto .read
  | .eraseSelect =>
    if f.geometry.magic1 a && b == 0x10 then f.eraseChip.goto .chipErase
    else if b == 0x30 then (f.eraseSector a).goto .sectorErase
    else f.goto .read
  | .sectorErase => if b == 0xB0 then f.goto .sectorEraseSuspend else f
  | .sectorEraseSuspend => if b == 0x30 then f.goto .sectorErase else f
  | .autoselect => if b == 0xF0 then f.leaveToRead else f
  | .byteProgramError => if b == 0xF0 then f.leaveToRead else f
  | .byteProgramHappening => f
  | .chipErase => f

/-- `F.reset()` (R100). -/
def FlashChip.reset (f : FlashChip) : FlashChip := f.leaveToRead

/-- The host's write-back: the array is saved, and `dirty` "only becomes false" by it (R15, R384). It is the host's
action and no operation of the block (I53); it has been done when the host issues C.reset(POWER_ON) (R354, log 8). -/
def FlashChip.writtenBack (f : FlashChip) : FlashChip := { f with dirty := false }

/-- What a reset of the controller does to its chip: `F.reset()` for every kind, which leaves `dirty` and both latches
(R13, R15, R193, R365). POWER_ON begins a new life of the instance (R360): the host guarantees that the state is then
the attach state except for buffers (R354), so the chip comes written back, and the last-read latch takes the value of
R16 (R352, R365, R370). The last-programmed latch, which may then hold any value (I7), stays (R13; log 8). -/
def FlashChip.resetBy (f : FlashChip) (kind : ResetKind) : FlashChip :=
  match kind with
  | .powerOn => { f.writtenBack.reset with lastRead := 0x00 }
  | .hardware | .software => f.reset

/-- What a read in `AUTOSELECT` returns: the low address byte selects an ID byte, 0, or the array (R86, R102). -/
def FlashChip.autoselectByte (f : FlashChip) (a : Nat) : Byte :=
  match a &&& 0xFF with
  | 0x00 => f.geometry.manufacturerId
  | 0x01 => f.geometry.deviceId
  | 0x02 => 0x00
  | _ => f.byteAt a

/-- The byte a read returns, by state (R102 to R106). -/
def FlashChip.readByte (f : FlashChip) (a : Nat) (cyc : Cycle) : Byte :=
  match f.state with
  | .autoselect => f.autoselectByte a
  | .byteProgramError => statusByte f.lastProgrammed cyc
  | _ => f.byteAt a

/-- The state a read leaves: the three states in which an operation has just been done are demoted to `READ` (R105),
the others stay (R102, R103, R104). -/
def SeqState.afterRead : SeqState → SeqState
  | .byteProgramHappening | .chipErase | .sectorErase => .read
  | q => q

/-- `F.read(a, cyc)`: the byte returned, and the chip after, which has latched it (R106). -/
def FlashChip.read (f : FlashChip) (a : Nat) (cyc : Cycle) : Byte × FlashChip :=
  (f.readByte a cyc, { f with state := f.state.afterRead, lastRead := f.readByte a cyc })

/-- `F.store(a, b, rmw)`: one transition (R107), or for a read-modify-write cycle first one with the stale byte, sampled
at entry (R108). -/
def FlashChip.store (f : FlashChip) (a : Nat) (b : Byte) (rmw : Bool) : FlashChip :=
  if rmw then (f.transition a f.lastRead).transition a b else f.transition a b

/-! ## Operations over State -/

/-- The FlashChip of the attached controller; MegaCart has none (R280). -/
def Controller.flash? : Controller → Option FlashChip
  | .ultiMem u => some u.flash
  | .finalExpansion e => some e.flash
  | .megaCart _ => none
  | .vicFlash v => some v.flash

/-- The attached controller with its FlashChip replaced. -/
def Controller.withFlash : Controller → FlashChip → Controller
  | .ultiMem u, f => .ultiMem { u with flash := f }
  | .finalExpansion e, f => .finalExpansion { e with flash := f }
  | .megaCart m, _ => .megaCart m
  | .vicFlash v, f => .vicFlash { v with flash := f }

/-- The state after an operation: the controller as it left it, and the byte it returned, if any (log 3). -/
def State.answer (s : State) (out : Option Byte) (c : Controller) : State := { s with ctrl := c, dataOut := out }

/-- Run an operation of the FlashChip at an offset: refused where there is no chip (R280, log 12) and where the offset
lies outside it (R101, R109, R110). DESIGN CHOICE (log 20): all but F.peek are calls that the
controller makes on the chip it owns, and are carried out as such, beneath the controller: no window, lock or
write-protect (R318) stands before them. `step` runs them for the controller alone, so that what a host issues changes a
buffer only through `Controller.write` (R4). -/
def onFlash (s : State) (a : Offset) (op : FlashChip → Nat → Option Byte × FlashChip) : Result :=
  match s.ctrl.flash? with
  | none => .refused .noFlashChip
  | some f =>
    if a.toNat < f.geometry.size then
      .next (s.answer (op f a.toNat).1 (s.ctrl.withFlash (op f a.toNat).2))
    else .refused .offsetOutOfRange

/-- Run one command cycle as a row of the table describes it: where the row's own condition holds the row's effect,
elsewhere the cycle is another row's and `transition` decides (R81, R85; log 9). -/
def commandCycle (s : State) (a : Offset) (b : Byte) (selected : FlashChip → Nat → Bool)
    (effect : FlashChip → Nat → FlashChip) : Result :=
  onFlash s a fun f o => (none, if selected f o then effect f o else f.transition o b)

end Sys2Proof.Machine
end

