-- ==== Sys2Proof/Machine/FlashBus.lean ====
section
/-! DEFINITION. The meanings of the five FlashChip bus operations (40_flash_bus_ops). -/

namespace Sys2Proof.Machine

/-- F.reset (R100): the sequencer goes to `READ`, no other field changes. It has no offset. DESIGN
CHOICE (log 20): like every operation of this file it acts on the attached chip beneath the controller. -/
def execFReset (s : State) : Result :=
  match s.ctrl.flash? with
  | none => .refused .noFlashChip
  | some f => .next (s.answer none (s.ctrl.withFlash f.reset))

/-- F.read (R101 to R106). -/
def execFRead (a : Offset) (cyc : Cycle) (s : State) : Result :=
  onFlash s a fun f o => (some (f.read o cyc).1, (f.read o cyc).2)

/-- F.store, plain (R107). -/
def execFStore (a : Offset) (b : Byte) (s : State) : Result :=
  onFlash s a fun f o => (none, f.store o b false)

/-- F.store with rmw (R108). -/
def execFStoreRmw (a : Offset) (b : Byte) (s : State) : Result :=
  onFlash s a fun f o => (none, f.store o b true)

/-- F.peek (R110): the array byte in every state, nothing changed. -/
def execFPeek (a : Offset) (s : State) : Result :=
  onFlash s a fun f o => (some (f.byteAt o), f)

end Sys2Proof.Machine
end

