-- ==== Sys2Proof/Machine/FlashCommands.lean ====
section
/-! DEFINITION. The meanings of the 26 command-cycle rows (30_encoding R81, R83, R85, 41_flash_commands). Each row
says the condition under which it is selected and what it does then; elsewhere the cycle is another row's (log 9).
DESIGN CHOICE (log 20): the cycle acts on the attached chip beneath the controller. -/

namespace Sys2Proof.Machine

/-- UNLOCK1 (R122). -/
def execUnlock1 (a : Offset) (s : State) : Result :=
  commandCycle s a 0xAA (fun f o => f.state == .read && f.geometry.magic1 o) fun f _ => f.goto .magic1

/-- READ.ignore (R123). -/
def execReadIgnore (a : Offset) (b : Byte) (s : State) : Result :=
  commandCycle s a b (fun f o => f.state == .read && !(f.geometry.magic1 o && b == 0xAA)) fun f _ => f

/-- UNLOCK2 (R124). -/
def execUnlock2 (a : Offset) (s : State) : Result :=
  commandCycle s a 0x55 (fun f o => f.state == .magic1 && f.geometry.magic2 o) fun f _ => f.goto .magic2

/-- MAGIC_1.abort (R125). -/
def execMagic1Abort (a : Offset) (b : Byte) (s : State) : Result :=
  commandCycle s a b (fun f o => f.state == .magic1 && !(f.geometry.magic2 o && b == 0x55)) fun f _ => f.goto .read

/-- AUTOSELECT (R126). -/
def execAutoselect (a : Offset) (s : State) : Result :=
  commandCycle s a 0x90 (fun f o => f.state == .magic2 && f.geometry.magic1 o) fun f _ => f.goto .autoselect

/-- PROGRAM_SETUP (R127). -/
def execProgramSetup (a : Offset) (s : State) : Result :=
  commandCycle s a 0xA0 (fun f o => f.state == .magic2 && f.geometry.magic1 o) fun f _ => f.goto .byteProgram

/-- ERASE_SETUP (R128). -/
def execEraseSetup (a : Offset) (s : State) : Result :=
  commandCycle s a 0x80 (fun f o => f.state == .magic2 && f.geometry.magic1 o) fun f _ => f.goto .eraseMagic1

/-- MAGIC_2.abort (R129). -/
def execMagic2Abort (a : Offset) (b : Byte) (s : State) : Result :=
  commandCycle s a b
    (fun f o => f.state == .magic2 && !(f.geometry.magic1 o && (b == 0x90 || b == 0xA0 || b == 0x80)))
    fun f _ => f.goto .read

/-- PROGRAM_DATA (R130, R160): neither the offset nor the byte is examined. -/
def execProgramData (a : Offset) (b : Byte) (s : State) : Result :=
  commandCycle s a b (fun f _ => f.state == .byteProgram) fun f o => f.programCycle o b

/-- ERASE_UNLOCK1 (R131). -/
def execEraseUnlock1 (a : Offset) (s : State) : Result :=
  commandCycle s a 0xAA (fun f o => f.state == .eraseMagic1 && f.geometry.magic1 o) fun f _ => f.goto .eraseMagic2

/-- ERASE_MAGIC_1.abort (R132). -/
def execEraseMagic1Abort (a : Offset) (b : Byte) (s : State) : Result :=
  commandCycle s a b (fun f o => f.state == .eraseMagic1 && !(f.geometry.magic1 o && b == 0xAA))
    fun f _ => f.goto .read

/-- ERASE_UNLOCK2 (R133). -/
def execEraseUnlock2 (a : Offset) (s : State) : Result :=
  commandCycle s a 0x55 (fun f o => f.state == .eraseMagic2 && f.geometry.magic2 o) fun f _ => f.goto .eraseSelect

/-- ERASE_MAGIC_2.abort (R134). -/
def execEraseMagic2Abort (a : Offset) (b : Byte) (s : State) : Result :=
  commandCycle s a b (fun f o => f.state == .eraseMagic2 && !(f.geometry.magic2 o && b == 0x55))
    fun f _ => f.goto .read

/-- CHIP_ERASE (R135, R163). -/
def execChipErase (a : Offset) (s : State) : Result :=
  commandCycle s a 0x10 (fun f o => f.state == .eraseSelect && f.geometry.magic1 o)
    fun f _ => f.eraseChip.goto .chipErase

/-- SECTOR_ERASE (R136, R164): the offset only selects the sector. -/
def execSectorErase (a : Offset) (s : State) : Result :=
  commandCycle s a 0x30 (fun f _ => f.state == .eraseSelect) fun f o => (f.eraseSector o).goto .sectorErase

/-- ERASE_SELECT.abort (R137). -/
def execEraseSelectAbort (a : Offset) (b : Byte) (s : State) : Result :=
  commandCycle s a b (fun f o => f.state == .eraseSelect && !(f.geometry.magic1 o && b == 0x10) && b != 0x30)
    fun f _ => f.goto .read

/-- ERASE_SUSPEND (R138, R165). -/
def execEraseSuspend (a : Offset) (s : State) : Result :=
  commandCycle s a 0xB0 (fun f _ => f.state == .sectorErase) fun f _ => f.goto .sectorEraseSuspend

/-- SECTOR_ERASE.ignore (R139). -/
def execSectorEraseIgnore (a : Offset) (b : Byte) (s : State) : Result :=
  commandCycle s a b (fun f _ => f.state == .sectorErase && b != 0xB0) fun f _ => f

/-- ERASE_RESUME (R140): nothing is erased again. -/
def execEraseResume (a : Offset) (s : State) : Result :=
  commandCycle s a 0x30 (fun f _ => f.state == .sectorEraseSuspend) fun f _ => f.goto .sectorErase

/-- SECTOR_ERASE_SUSPEND.ignore (R141). -/
def execSectorEraseSuspendIgnore (a : Offset) (b : Byte) (s : State) : Result :=
  commandCycle s a b (fun f _ => f.state == .sectorEraseSuspend && b != 0x30) fun f _ => f

/-- RESET_CMD in AUTOSELECT (R142). -/
def execResetCmdAutoselect (a : Offset) (s : State) : Result :=
  commandCycle s a 0xF0 (fun f _ => f.state == .autoselect) fun f _ => f.leaveToRead

/-- AUTOSELECT.ignore (R143). -/
def execAutoselectIgnore (a : Offset) (b : Byte) (s : State) : Result :=
  commandCycle s a b (fun f _ => f.state == .autoselect && b != 0xF0) fun f _ => f

/-- RESET_CMD in BYTE_PROGRAM_ERROR (R144, R346). -/
def execResetCmdError (a : Offset) (s : State) : Result :=
  commandCycle s a 0xF0 (fun f _ => f.state == .byteProgramError) fun f _ => f.leaveToRead

/-- BYTE_PROGRAM_ERROR.ignore (R145). -/
def execByteProgramErrorIgnore (a : Offset) (b : Byte) (s : State) : Result :=
  commandCycle s a b (fun f _ => f.state == .byteProgramError && b != 0xF0) fun f _ => f

/-- BYTE_PROGRAM_HAPPENING.ignore (R146). -/
def execByteProgramHappeningIgnore (a : Offset) (b : Byte) (s : State) : Result :=
  commandCycle s a b (fun f _ => f.state == .byteProgramHappening) fun f _ => f

/-- CHIP_ERASE.ignore (R147). -/
def execChipEraseIgnore (a : Offset) (b : Byte) (s : State) : Result :=
  commandCycle s a b (fun f _ => f.state == .chipErase) fun f _ => f

end Sys2Proof.Machine
end

