-- ==== Sys2Proof/Machine/FinalExpansion.lean ====
section
/-! DEFINITION. The Final Expansion controller: registers, mode table, resolution, the lock-bit hook, reset
(45_final_expansion). -/

namespace Sys2Proof.Machine

/-- The block a window is, where it is one (R240, R247). -/
def feBlockOf : Window → Option FeBlock
  | .ram123 => some .blk0
  | .blk1 => some .blk1
  | .blk2 => some .blk2
  | .blk3 => some .blk3
  | .blk5 => some .blk5
  | .io2 | .io3 => none

/-- `blkbit(b)` (R242, R247). -/
def feBlockBit : FeBlock → Nat
  | .blk0 => 0
  | .blk1 => 1
  | .blk2 => 2
  | .blk3 => 3
  | .blk5 => 4

/-- `base(b)`: where a block lies in its 32 KiB bank (R247). -/
def feBlockBase : FeBlock → Nat
  | .blk0 => 0x0000
  | .blk1 => 0x0000
  | .blk2 => 0x2000
  | .blk3 => 0x4000
  | .blk5 => 0x6000

/-- `n = reg_a[4:0]`, the bank number (R242). -/
def FinalExpansion.bank (e : FinalExpansion) : Nat := (e.regA.extractLsb' 0 5).toNat

/-- `flag(b) = reg_a[blkbit(b)]` (R242). -/
def FinalExpansion.flag (e : FinalExpansion) (b : FeBlock) : Bool := e.regA.getLsbD (feBlockBit b)

/-- `inv_a13` and `inv_a14`, bits 5 and 6 of register B (R243). -/
def FinalExpansion.inversion (e : FinalExpansion) : LineInversion := ⟨e.regB.getLsbD 5, e.regB.getLsbD 6⟩

/-- The default FE_MODE_TABLE (R250). -/
def feStandardTable (m : FeMode) (b : FeBlock) (f : Bool) (n : Nat) (dir : Direction) : FeCell :=
  match m, b with
  | .reserved, _ => .off
  | _, .blk0 => .ramBank 0
  | .start, .blk5 => match dir with | .load => .flashBank 0 | .store => .ramBank 1
  | .start, _ => match dir with | .load => .off | .store => .ramBank 1
  | .flash, _ => .flashBank n
  | .superRom, _ => match dir with | .load => .flashBank n | .store => .ramBank (1 ||| n)
  | .romRam, _ =>
    match dir with
    | .load => if f then .flashBank 0 else .ramBank 1
    | .store => if f then .ramBank 2 else .ramBank 1
  | .ram1, _ =>
    match dir with
    | .load => .ramBank 1
    | .store => if f then .ramBankRO 1 else .ramBank 1
  | .superRam, _ => .ramBank n
  | .ram2, _ =>
    match dir with
    | .load => if f then .ramBank 2 else .ramBank 1
    | .store => .ramBank 1

/-- What the spec requires of every table: nothing in the reserved mode (R241), the SuperROM banks (R251), and the
start ROM of BLK5 in mode Start (R253, I30). -/
def feRequiredCell (m : FeMode) (b : FeBlock) (n : Nat) (dir : Direction) : Option FeCell :=
  match m, b, dir with
  | .reserved, _, _ => some .off
  | .superRom, .blk0, _ => none
  | .superRom, _, .load => some (.flashBank n)
  | .superRom, _, .store => some (.ramBank (1 ||| n))
  | .start, .blk5, .load => some (.flashBank 0)
  | _, _, _ => none

/-- Whether `reg_a[4:0]` is the bank number in a mode (R242). -/
def feUsesBank : FeMode → Bool
  | .flash | .superRom | .superRam => true
  | .start | .romRam | .ram1 | .ram2 | .reserved => false

/-- Whether `reg_a[4:0]` holds the per-block flags in a mode (R242). In mode Start the bits are neither: they are stored
and ignored. -/
def feUsesFlags : FeMode → Bool
  | .romRam | .ram1 | .ram2 => true
  | .start | .flash | .superRom | .superRam | .reserved => false

/-- `FE_MODE_TABLE(mode, b, flag(b), n, dir)` (R249): the default, or a free table under the required cells, which sees
of `reg_a[4:0]` only what R242 makes of it in the mode (log 7). -/
def feModeTable (t : FeTable) (m : FeMode) (b : FeBlock) (f : Bool) (n : Nat) (dir : Direction) : FeCell :=
  match t with
  | .standard => feStandardTable m b f n dir
  | .other k =>
    (feRequiredCell m b n dir).getD
      (Config.feModeTable k m b (feUsesFlags m && f) (if feUsesBank m then n else 0) dir)

/-- `offset(b, addr, bank, L)` (R248). -/
def FinalExpansion.offset (e : FinalExpansion) (b : FeBlock) (addr : Addr) (bank len : Nat) : Nat :=
  compose addr windowMask bank 0x8000 (feBlockBase b) (lineInversion e.inversion) len

/-- `resolve(E, b, addr, dir)` for a block: the block-disable bit beats the mode table (R249, R343). -/
def FinalExpansion.resolveBlock (e : FinalExpansion) (b : FeBlock) (addr : Addr) (dir : Direction) : Resolution :=
  if e.regB.getLsbD (feBlockBit b) then .disabled
  else
    match feModeTable e.table e.mode b (e.flag b) e.bank dir with
    | .off => .disabled
    | .flashBank k => .flash (e.offset b addr k e.flash.geometry.size)
    | .ramBank k => .ram .ram (e.offset b addr k e.ram.size)
    | .ramBankRO k => .ramReadOnly .ram (e.offset b addr k e.ram.size)

/-- `resolve(E, w, addr, dir)`; the part of IO3 that is no register is open bus and drop (R244). -/
def FinalExpansion.resolve (e : FinalExpansion) (w : Window) (addr : Addr) (dir : Direction) : Resolution :=
  match feBlockOf w with
  | some b => e.resolveBlock b addr dir
  | none => .disabled

/-- The two registers of the Final Expansion. -/
inductive FeReg
  | a | b
  deriving DecidableEq, Repr, Inhabited

/-- The register an address of IO3 selects by its low two bits, if any (R244). -/
def feRegisterAt (addr : Addr) : Option FeReg :=
  if windowOf addr = some .io3 then
    match (addr.extractLsb' 0 2).toNat with
    | 2 => some .a
    | 3 => some .b
    | _ => none
  else none

/-- The stored byte of a register (R244). -/
def FinalExpansion.reg (e : FinalExpansion) : FeReg → Byte
  | .a => e.regA
  | .b => e.regB

/-- A register written with all eight bits (R244). -/
def FinalExpansion.setReg (e : FinalExpansion) (b : Byte) : FeReg → FinalExpansion
  | .a => { e with regA := b }
  | .b => { e with regB := b }

/-- Register read under the lock: open bus while locked (R189, R245). -/
def FinalExpansion.readReg (e : FinalExpansion) (r : FeReg) (busLast : Byte) : Byte :=
  if e.locked then busLast else e.reg r

/-- Register write under the lock: dropped while locked (R189, R245). -/
def FinalExpansion.writeReg (e : FinalExpansion) (r : FeReg) (b : Byte) : FinalExpansion :=
  if e.locked then e else e.setReg b r

/-- The lock-bit hook: any access in BLK5 clears it (R246). -/
def FinalExpansion.hook (e : FinalExpansion) (w : Window) : FinalExpansion :=
  if w = .blk5 then { e with lockBit := false } else e

/-- `E.reset(kind)`: the registers and the lock bit do not depend on the kind (R254, R367). -/
def FinalExpansion.reset (e : FinalExpansion) (kind : ResetKind) : FinalExpansion :=
  { e with regA := 0x00, regB := 0x00, lockBit := true, flash := e.flash.resetBy kind }

end Sys2Proof.Machine
end

