-- ==== Sys2Proof/Machine/MegaCart.lean ====
section
/-! DEFINITION. The MegaCart controller: bank registers, flip-flops, control writes, resolution, reset (46_megacart). -/

namespace Sys2Proof.Machine

/-- `bl`: the low bank as the decode logic reads it, 0x7F while `output_enable` is clear (R281). -/
def MegaCart.effectiveLow (m : MegaCart) : Byte := if m.outputEnable then m.bankLow else 0x7F

/-- `bh`: the high bank as the decode logic reads it (R281). -/
def MegaCart.effectiveHigh (m : MegaCart) : Byte := if m.outputEnable then m.bankHigh else 0x7F

/-- ROM of the low half at the effective low bank (R285, R286). -/
def MegaCart.lowRom (m : MegaCart) (addr : Addr) : Resolution :=
  .rom (compose addr windowMask (m.effectiveLow.extractLsb' 0 7).toNat 0x2000 0x000000 0 m.rom.size)

/-- ROM of the high half at the effective high bank (R285, R286). -/
def MegaCart.highRom (m : MegaCart) (addr : Addr) : Resolution :=
  .rom (compose addr windowMask (m.effectiveHigh.extractLsb' 0 7).toNat 0x2000 0x100000 0 m.rom.size)

/-- `ramres`: RAM at a block's base, read-write only with `ram_we` (R285, R286). -/
def MegaCart.ramAt (m : MegaCart) (base : Nat) (addr : Addr) : Resolution :=
  let o := compose addr windowMask 0 0 base 0 m.ram.size
  if m.effectiveHigh.getLsbD 6 then .ram .ram o else .ramReadOnly .ram o

/-- BLK1, BLK2, BLK3: low-half ROM, or RAM where both enables are set, or nothing (R285). -/
def MegaCart.lowBlock (m : MegaCart) (base : Nat) (addr : Addr) : Resolution :=
  if m.effectiveLow.getLsbD 7 = false then m.lowRom addr
  else if m.effectiveHigh.getLsbD 7 then m.ramAt base addr
  else .disabled

/-- BLK5: high-half ROM, else low-half ROM, else RAM (R285). -/
def MegaCart.highBlock (m : MegaCart) (addr : Addr) : Resolution :=
  if m.effectiveHigh.getLsbD 7 = false then m.highRom addr
  else if m.effectiveLow.getLsbD 7 = false then m.lowRom addr
  else m.ramAt 0x6000 addr

/-- RAM123, IO2, IO3: NVRAM while it is enabled (R285, R287). -/
def MegaCart.nvramWindow (m : MegaCart) (addr : Addr) : Resolution :=
  if m.nvramEnable then .ram .nvram (compose addr windowMask 0 0 0 0 m.nvram.size) else .disabled

/-- `resolve(M, w, addr, dir)`; the direction plays no part (R285). -/
def MegaCart.resolve (m : MegaCart) (w : Window) (addr : Addr) : Resolution :=
  match w with
  | .blk1 => m.lowBlock 0x0000 addr
  | .blk2 => m.lowBlock 0x2000 addr
  | .blk3 => m.lowBlock 0x4000 addr
  | .blk5 => m.highBlock addr
  | .ram123 | .io2 | .io3 => m.nvramWindow addr

/-- The first effect of an IO3 write: the byte goes to NVRAM under the enable as it stood (R284). -/
def MegaCart.storeNvram (m : MegaCart) (addr : Addr) (b : Byte) : MegaCart :=
  if m.nvramEnable then { m with nvram := m.nvram.write (compose addr windowMask 0 0 0 0 m.nvram.size) b } else m

/-- The second effect of an IO3 write, decoded on address bits 8 and 7 (R284). -/
def MegaCart.decodeControl (m : MegaCart) (addr : Addr) (b : Byte) : MegaCart :=
  match addr.getLsbD 8, addr.getLsbD 7 with
  | false, false => m
  | false, true => { m with bankHigh := b }
  | true, false => { m with bankLow := b }
  | true, true => { m with nvramEnable := !b.getLsbD 0, bankHigh := b, bankLow := b }

/-- A whole IO3 write (R284). -/
def MegaCart.controlWrite (m : MegaCart) (addr : Addr) (b : Byte) : MegaCart :=
  (m.storeNvram addr b).decodeControl addr b

/-- The write hook: IO3 only (R192, R284). -/
def MegaCart.writeHook (m : MegaCart) (w : Window) (addr : Addr) (b : Byte) : MegaCart :=
  if w = .io3 then m.controlWrite addr b else m

/-- `M.reset(kind)`: a software reset toggles `output_enable` and nothing else; the other kinds clear it and the banks
and enable NVRAM (R291, R368). -/
def MegaCart.reset (m : MegaCart) : ResetKind → MegaCart
  | .software => { m with outputEnable := !m.outputEnable }
  | .hardware | .powerOn =>
    { m with outputEnable := false, bankLow := 0x00, bankHigh := 0x00, nvramEnable := true }

end Sys2Proof.Machine
end

