-- ==== Sys2Proof/Machine/UltiMem.lean ====
section
/-! DEFINITION. The UltiMem controller: register file, resolution, reset (44_ultimem). -/

namespace Sys2Proof.Machine

/-- What a window mode field says (R212). -/
inductive UmMode
  | disabled | flash | ramReadOnly | ramReadWrite
  deriving DecidableEq, Repr, Inhabited

/-- The four field values in the source's listing order (R212, D21). -/
def umModeOfBits (x : BitVec 2) : UmMode :=
  match x.toNat with
  | 0 => .disabled
  | 1 => .flash
  | 2 => .ramReadOnly
  | _ => .ramReadWrite

/-- `mode(w)`: the 2-bit field of a window (R212). -/
def UltiMem.mode (u : UltiMem) : Window → UmMode
  | .ram123 => umModeOfBits ((u.regs.get 1).extractLsb' 0 2)
  | .io2 => umModeOfBits ((u.regs.get 1).extractLsb' 2 2)
  | .io3 => umModeOfBits ((u.regs.get 1).extractLsb' 4 2)
  | .blk1 => umModeOfBits ((u.regs.get 2).extractLsb' 0 2)
  | .blk2 => umModeOfBits ((u.regs.get 2).extractLsb' 2 2)
  | .blk3 => umModeOfBits ((u.regs.get 2).extractLsb' 4 2)
  | .blk5 => umModeOfBits ((u.regs.get 2).extractLsb' 6 2)

/-- `(hi << 8) | lo` (R213). -/
def bankPair (hi lo : Byte) : Nat := hi.toNat <<< 8 ||| lo.toNat

/-- `bank(pair(w))`: the bank number of a window; IO2 and IO3 share a pair (R211, R213). -/
def UltiMem.bank (u : UltiMem) : Window → Nat
  | .ram123 => bankPair (u.regs.get 5) (u.regs.get 4)
  | .io2 | .io3 => bankPair (u.regs.get 7) (u.regs.get 6)
  | .blk1 => bankPair (u.regs.get 9) (u.regs.get 8)
  | .blk2 => bankPair (u.regs.get 11) (u.regs.get 10)
  | .blk3 => bankPair (u.regs.get 13) (u.regs.get 12)
  | .blk5 => bankPair (u.regs.get 15) (u.regs.get 14)

/-- `UM_INV(regs)`: no inversion by default, otherwise a function of which nothing is known (R219, log 7). -/
def UltiMem.inversion (u : UltiMem) : LineInversion :=
  match u.params.inversion with
  | .none => ⟨false, false⟩
  | .other k => Config.umInversion k u.regs

/-- `core(L)` of a window (R217, R218). -/
def UltiMem.offset (u : UltiMem) (w : Window) (addr : Addr) (len : Nat) : Nat :=
  compose addr windowMask (u.bank w) 0x2000 (u.params.base.ofWindow w) (lineInversion u.inversion) len

/-- `resolve(U, w, addr, dir)`; the direction plays no part (R217). -/
def UltiMem.resolve (u : UltiMem) (w : Window) (addr : Addr) : Resolution :=
  match u.mode w with
  | .disabled => .disabled
  | .flash => .flash (u.offset w addr u.flash.geometry.size)
  | .ramReadOnly => .ramReadOnly .ram (u.offset w addr u.ram.size)
  | .ramReadWrite => .ram .ram (u.offset w addr u.ram.size)

/-- Whether an address is one of the sixteen register addresses 0x9FF0 to 0x9FFF (R211). -/
def umRegisterAddr (addr : Addr) : Bool := 0x9FF0 ≤ addr.toNat && addr.toNat ≤ 0x9FFF

/-- `i = addr & 0x0F` (R215). -/
def umRegisterIndex (addr : Addr) : Fin 16 := (addr.extractLsb' 0 4).toFin

/-- The CPU address of a register (R211). -/
def umAddrOf (i : Fin 16) : Addr := 0x9FF0 + BitVec.ofNat 16 i.val

/-- The register addresses answer as registers only while they are not disabled (R216, R220). -/
def UltiMem.answersAsRegister (u : UltiMem) (addr : Addr) : Bool := umRegisterAddr addr && !u.locked

/-- Register read value: the stored byte under UM_RMASK (R215). -/
def UltiMem.readReg (u : UltiMem) (i : Fin 16) : Byte := u.regs.get i &&& u.params.rmask.get i

/-- Register write: the byte under UM_WMASK (R215). -/
def UltiMem.writeReg (u : UltiMem) (i : Fin 16) (b : Byte) : UltiMem :=
  { u with regs := u.regs.set i (b &&& u.params.wmask.get i) }

/-- `U.reset(kind)`: the registers do not depend on the kind (R222, R366). -/
def UltiMem.reset (u : UltiMem) (kind : ResetKind) : UltiMem :=
  { u with regs := u.params.resetRegs, flash := u.flash.resetBy kind }

end Sys2Proof.Machine
end

