-- ==== Sys2Proof/Machine/VicFlash.lean ====
section
/-! DEFINITION. The VIC Flash Plugin controller: registers, the `cfg_en` latch, resolution, reset
(47_vic_flash_plugin). -/

namespace Sys2Proof.Machine

/-- `ramsel`, bits 4:3 of the configuration register (R312). -/
def VicFlash.ramSelect (v : VicFlash) : BitVec 2 := v.cfgReg.extractLsb' 3 2

/-- RAM at one of the three disjoint areas (R316, R317). -/
def VicFlash.ramAt (v : VicFlash) (base : Nat) (addr : Addr) : Resolution :=
  .ram .ram (compose addr windowMask 0 0 base 0 v.ram.size)

/-- `V.cfg_reg[0] * 0x200000`: the half of the flash (R312, R317). -/
def VicFlash.flashHalf (v : VicFlash) : Nat := (v.cfgReg.extractLsb' 0 1).toNat * 0x200000

/-- `resolve(V, w, addr, dir)`; the direction plays no part (R316). -/
def VicFlash.resolve (v : VicFlash) (w : Window) (addr : Addr) : Resolution :=
  match w with
  | .ram123 => if v.ramSelect = 1 ∨ v.ramSelect = 2 then v.ramAt 0x0000 addr else .disabled
  | .blk1 => if v.ramSelect = 3 then v.ramAt 0x2000 addr else .disabled
  | .blk5 =>
    if v.cfgReg.getLsbD 5 then v.ramAt 0x4000 addr
    else .flash (compose addr windowMask v.bankReg.toNat 0x2000 v.flashHalf 0 v.flash.geometry.size)
  | .blk2 | .blk3 | .io2 | .io3 => .disabled

/-- The two registers of the VIC Flash Plugin. -/
inductive VfpReg
  | bank | cfg
  deriving DecidableEq, Repr, Inhabited

/-- The register an address of IO2 selects by bit 0 (R313). -/
def vfpRegisterAt (addr : Addr) : Option VfpReg :=
  if windowOf addr = some .io2 then some (if addr.getLsbD 0 then .cfg else .bank) else none

/-- The stored byte of a register (R313). -/
def VicFlash.reg (v : VicFlash) : VfpReg → Byte
  | .bank => v.bankReg
  | .cfg => v.cfgReg

/-- A register written with all eight bits (R313). -/
def VicFlash.setReg (v : VicFlash) (b : Byte) : VfpReg → VicFlash
  | .bank => { v with bankReg := b }
  | .cfg => { v with cfgReg := b }

/-- The latch after every accepted register write (R315). -/
def VicFlash.latch (v : VicFlash) : VicFlash := { v with cfgEn := cfgEnLatch v.cfgReg }

/-- Register read under the lock: open bus while locked (R189, R314). -/
def VicFlash.readReg (v : VicFlash) (r : VfpReg) (busLast : Byte) : Byte :=
  if v.locked then busLast else v.reg r

/-- Register write under the lock: dropped while locked, else stored and latched (R189, R313 to R315). -/
def VicFlash.writeReg (v : VicFlash) (r : VfpReg) (b : Byte) : VicFlash :=
  if v.locked then v else (v.setReg b r).latch

/-- `V.reset(kind)`: the registers and `cfg_en` do not depend on the kind (R321, R369). -/
def VicFlash.reset (v : VicFlash) (kind : ResetKind) : VicFlash :=
  { v with bankReg := 0x00, cfgReg := 0x40, cfgEn := true, flash := v.flash.resetBy kind }

end Sys2Proof.Machine
end

