-- ==== Sys2Proof/Machine/Contract.lean ====
section
/-! DEFINITION. What every controller has in common: the claimed windows, the hooks, register decode, `resolve`, read and
write through a window, reset (43_bank_contract), and the meanings of the five controller operations of the table. -/

namespace Sys2Proof.Machine

/-- The windows a variant claims (20_memory R57). The Final Expansion answers throughout IO3, where its registers repeat
(R244); the VIC Flash Plugin throughout IO2 (R313). -/
def Controller.claims : Controller → Window → Bool
  | .ultiMem _, _ => true
  | .finalExpansion _, w => match w with | .io2 => false | _ => true
  | .megaCart _, _ => true
  | .vicFlash _, w => match w with | .ram123 | .blk1 | .blk5 | .io2 => true | .blk2 | .blk3 | .io3 => false

/-- The window of the attached variant that an address lies in, if any (R51, R57). -/
def Controller.window? (c : Controller) (addr : Addr) : Option Window := (windowOf addr).filter c.claims

/-- The read hook: the Final Expansion's lock bit (R192, R246). -/
def Controller.readHook (c : Controller) (w : Window) : Controller :=
  match c with
  | .finalExpansion e => .finalExpansion (e.hook w)
  | .ultiMem _ | .megaCart _ | .vicFlash _ => c

/-- The write hook: the Final Expansion's lock bit, MegaCart's control writes (R192, R246, R284). -/
def Controller.writeHook (c : Controller) (w : Window) (addr : Addr) (b : Byte) : Controller :=
  match c with
  | .finalExpansion e => .finalExpansion (e.hook w)
  | .megaCart m => .megaCart (m.writeHook w addr b)
  | .ultiMem _ | .vicFlash _ => c

/-- The byte a configuration register read returns, where the address is one of a register for reads (R189): UltiMem
R215, Final Expansion R244, VIC Flash Plugin R313. MegaCart has no register address for reads (R288). -/
def Controller.configRead? (c : Controller) (addr : Addr) (busLast : Byte) : Option Byte :=
  match c with
  | .ultiMem u => if u.answersAsRegister addr then some (u.readReg (umRegisterIndex addr)) else none
  | .finalExpansion e => (feRegisterAt addr).map fun r => e.readReg r busLast
  | .megaCart _ => none
  | .vicFlash v => (vfpRegisterAt addr).map fun r => v.readReg r busLast

/-- The controller after a configuration register write, where the address is one of a register for writes (R189). For
MegaCart every IO3 address is one and the hook has already done the write (R288). -/
def Controller.configWrite? (c : Controller) (addr : Addr) (b : Byte) : Option Controller :=
  match c with
  | .ultiMem u =>
    if u.answersAsRegister addr then some (.ultiMem (u.writeReg (umRegisterIndex addr) b)) else none
  | .finalExpansion e => (feRegisterAt addr).map fun r => .finalExpansion (e.writeReg r b)
  | .megaCart m => if windowOf addr = some .io3 then some (.megaCart m) else none
  | .vicFlash v => (vfpRegisterAt addr).map fun r => .vicFlash (v.writeReg r b)

/-- `resolve(C, w, addr, dir)`: a pure function of registers and flip-flops (R182). -/
def Controller.resolve (c : Controller) (w : Window) (addr : Addr) (dir : Direction) : Resolution :=
  match c with
  | .ultiMem u => u.resolve w addr
  | .finalExpansion e => e.resolve w addr dir
  | .megaCart m => m.resolve w addr
  | .vicFlash v => v.resolve w addr

/-- A byte of a read-write buffer of the attached variant; only MegaCart has an NVRAM (R24). -/
def Controller.bufferByte (c : Controller) (buf : BufferName) (o : Nat) : Byte :=
  match c, buf with
  | .ultiMem u, _ => u.ram.byteAt o
  | .finalExpansion e, _ => e.ram.byteAt o
  | .megaCart m, .ram => m.ram.byteAt o
  | .megaCart m, .nvram => m.nvram.byteAt o
  | .vicFlash v, _ => v.ram.byteAt o

/-- A read-write buffer with one byte written. -/
def Controller.bufferWrite (c : Controller) (buf : BufferName) (o : Nat) (b : Byte) : Controller :=
  match c, buf with
  | .ultiMem u, _ => .ultiMem { u with ram := u.ram.write o b }
  | .finalExpansion e, _ => .finalExpansion { e with ram := e.ram.write o b }
  | .megaCart m, .ram => .megaCart { m with ram := m.ram.write o b }
  | .megaCart m, .nvram => .megaCart { m with nvram := m.nvram.write o b }
  | .vicFlash v, _ => .vicFlash { v with ram := v.ram.write o b }

/-- A byte of MegaCart's ROM (R288); no other variant resolves to ROM (log 16). -/
def Controller.romByte (c : Controller) (o : Nat) (busLast : Byte) : Byte :=
  match c with
  | .megaCart m => m.rom.byteAt o
  | .ultiMem _ | .finalExpansion _ | .vicFlash _ => busLast

/-- A read of the chip at an offset. A controller without a chip never resolves to flash (log 16). -/
def Controller.flashRead (c : Controller) (o : Nat) (busLast : Byte) (cyc : Cycle) : Byte × Controller :=
  match c.flash? with
  | some f => ((f.read o cyc).1, c.withFlash (f.read o cyc).2)
  | none => (busLast, c)

/-- A store to the chip at an offset, unless it is write-protected (R185, R318). -/
def Controller.flashStore (c : Controller) (o : Nat) (b : Byte) (rmw : Bool) : Controller :=
  match c.flash? with
  | some f => if c.writeProtected then c else c.withFlash (f.store o b rmw)
  | none => c

/-- What a resolved load returns, and the controller after it (R184). -/
def Controller.readResolved (c : Controller) (r : Resolution) (busLast : Byte) (cyc : Cycle) : Byte × Controller :=
  match r with
  | .disabled => (busLast, c)
  | .flash o => c.flashRead o busLast cyc
  | .rom o => (c.romByte o busLast, c)
  | .ram buf o => (c.bufferByte buf o, c)
  | .ramReadOnly buf o => (c.bufferByte buf o, c)

/-- The controller after a resolved store (R185, R187). -/
def Controller.writeResolved (c : Controller) (r : Resolution) (b : Byte) (rmw : Bool) : Controller :=
  match r with
  | .disabled => c
  | .flash o => c.flashStore o b rmw
  | .rom _ => c
  | .ram buf o => c.bufferWrite buf o b
  | .ramReadOnly _ _ => c

/-- `C.read(addr, bus_last, cyc)` for an address in window `w`: hook, register decode, resolve (R184, R343). -/
def Controller.read (c : Controller) (w : Window) (addr : Addr) (busLast : Byte) (cyc : Cycle) : Byte × Controller :=
  let c := c.readHook w
  match c.configRead? addr busLast with
  | some v => (v, c)
  | none => c.readResolved (c.resolve w addr .load) busLast cyc

/-- `C.write(addr, b, rmw)` for an address in window `w`: hook, register decode, resolve, write-protect (R185, R343). -/
def Controller.write (c : Controller) (w : Window) (addr : Addr) (b : Byte) (rmw : Bool) : Controller :=
  let c := c.writeHook w addr b
  match c.configWrite? addr b with
  | some c' => c'
  | none => c.writeResolved (c.resolve w addr .store) b rmw

/-- `C.reset(kind)` (R193, R365 to R370): after POWER_ON the state is the attach state except for buffers (R354), up to
the last-programmed latch, whose value there cannot be observed (R16, I7; log 8). -/
def Controller.reset (c : Controller) (kind : ResetKind) : Controller :=
  match c with
  | .ultiMem u => .ultiMem (u.reset kind)
  | .finalExpansion e => .finalExpansion (e.reset kind)
  | .megaCart m => .megaCart (m.reset kind)
  | .vicFlash v => .vicFlash (v.reset kind)

/-- Run an operation at a CPU address: refused outside every window of the variant (R57, D19). -/
def onWindow (s : State) (addr : Addr) (op : Window → Option Byte × Controller) : Result :=
  match s.ctrl.window? addr with
  | none => .refused .outsideWindows
  | some w => .next (s.answer (op w).1 (op w).2)

/-- A read of the bus as the host issues it (R184, R353). -/
def busRead (addr : Addr) (busLast : Byte) (cyc : Cycle) (s : State) : Result :=
  onWindow s addr fun w => (some (s.ctrl.read w addr busLast cyc).1, (s.ctrl.read w addr busLast cyc).2)

/-- A write of the bus as the host issues it (R185, R353). -/
def busWrite (addr : Addr) (b : Byte) (rmw : Bool) (s : State) : Result :=
  onWindow s addr fun w => (none, s.ctrl.write w addr b rmw)

/-- An access of the bus in either direction. -/
def busAccess (addr : Addr) (acc : Access) (s : State) : Result :=
  match acc with
  | .load busLast cyc => busRead addr busLast cyc s
  | .store b rmw => busWrite addr b rmw s

/-! ## The meanings of the controller rows -/

/-- C.read (R184). -/
def execCRead (addr : Addr) (busLast : Byte) (cyc : Cycle) (s : State) : Result := busRead addr busLast cyc s

/-- C.write (R185). -/
def execCWrite (addr : Addr) (b : Byte) (rmw : Bool) (s : State) : Result := busWrite addr b rmw s

/-- C.config_read (R189): the register file answers, open bus where it is locked, and nothing changes; at an address
that is no register address it is the C.read at that address (R180, log 11). -/
def execCConfigRead (addr : Addr) (busLast : Byte) (cyc : Cycle) (s : State) : Result :=
  onWindow s addr fun w =>
    match s.ctrl.configRead? addr busLast with
    | some v => (some v, s.ctrl)
    | none => (some (s.ctrl.read w addr busLast cyc).1, (s.ctrl.read w addr busLast cyc).2)

/-- C.config_write (R189): the register file takes the byte, or drops it where it is locked (MegaCart's takes it in the
write hook, R284); at an address that is no register address it is the C.write at that address (R180, log 11). -/
def execCConfigWrite (addr : Addr) (b : Byte) (rmw : Bool) (s : State) : Result :=
  onWindow s addr fun w =>
    match (s.ctrl.writeHook w addr b).configWrite? addr b with
    | some c => (none, c)
    | none => (none, s.ctrl.write w addr b rmw)

/-- C.reset (R193). -/
def execCReset (kind : ResetKind) (s : State) : Result := .next (s.answer none (s.ctrl.reset kind))

end Sys2Proof.Machine
end

