-- ==== Sys2Proof/Machine/Registers.lean ====
section
/-! DEFINITION. The meanings of the 23 configuration register rows (30_encoding R89). Each is an access to the register at
its CPU address; where that address does not answer as that register (another variant, registers invisible) the access
is the plain bus access there (log 10). -/

namespace Sys2Proof.Machine

/-! ## UltiMem (44_ultimem R211 to R216) -/

/-- An access to `regs[i]` while the registers are visible: read under UM_RMASK, write under UM_WMASK (R215). While they
are disabled the address is an ordinary IO3 address (R216). -/
def umRegister (i : Fin 16) (acc : Access) (s : State) : Result :=
  match s.ctrl with
  | .ultiMem u =>
    if u.locked then busAccess (umAddrOf i) acc s
    else
      match acc with
      | .load _ _ => .next (s.answer (some (u.readReg i)) (.ultiMem u))
      | .store b _ => .next (s.answer none (.ultiMem (u.writeReg i b)))
  | .finalExpansion _ | .megaCart _ | .vicFlash _ => busAccess (umAddrOf i) acc s

/-- UltiMem `regs[0]`: control, UltiMem 0x9FF0 (R211, R216). -/
def execUmRegs0 (acc : Access) (s : State) : Result := umRegister 0 acc s

/-- UltiMem `regs[1]`: mode A, 0x9FF1: RAM123, IO2, IO3 (R212). -/
def execUmRegs1 (acc : Access) (s : State) : Result := umRegister 1 acc s

/-- UltiMem `regs[2]`: mode B, 0x9FF2: BLK1, BLK2, BLK3, BLK5 (R212). -/
def execUmRegs2 (acc : Access) (s : State) : Result := umRegister 2 acc s

/-- UltiMem `regs[3]`: no function, 0x9FF3 (R211). -/
def execUmRegs3 (acc : Access) (s : State) : Result := umRegister 3 acc s

/-- UltiMem `regs[4]`: RAM123 bank lo, 0x9FF4 (R213). -/
def execUmRegs4 (acc : Access) (s : State) : Result := umRegister 4 acc s

/-- UltiMem `regs[5]`: RAM123 bank hi, 0x9FF5 (R213). -/
def execUmRegs5 (acc : Access) (s : State) : Result := umRegister 5 acc s

/-- UltiMem `regs[6]`: IO2 and IO3 bank lo, 0x9FF6 (R213). -/
def execUmRegs6 (acc : Access) (s : State) : Result := umRegister 6 acc s

/-- UltiMem `regs[7]`: IO2 and IO3 bank hi, 0x9FF7 (R213). -/
def execUmRegs7 (acc : Access) (s : State) : Result := umRegister 7 acc s

/-- UltiMem `regs[8]`: BLK1 bank lo, 0x9FF8 (R213). -/
def execUmRegs8 (acc : Access) (s : State) : Result := umRegister 8 acc s

/-- UltiMem `regs[9]`: BLK1 bank hi, 0x9FF9 (R213). -/
def execUmRegs9 (acc : Access) (s : State) : Result := umRegister 9 acc s

/-- UltiMem `regs[10]`: BLK2 bank lo, 0x9FFA (R213). -/
def execUmRegs10 (acc : Access) (s : State) : Result := umRegister 10 acc s

/-- UltiMem `regs[11]`: BLK2 bank hi, 0x9FFB (R213). -/
def execUmRegs11 (acc : Access) (s : State) : Result := umRegister 11 acc s

/-- UltiMem `regs[12]`: BLK3 bank lo, 0x9FFC (R213). -/
def execUmRegs12 (acc : Access) (s : State) : Result := umRegister 12 acc s

/-- UltiMem `regs[13]`: BLK3 bank hi, 0x9FFD (R213). -/
def execUmRegs13 (acc : Access) (s : State) : Result := umRegister 13 acc s

/-- UltiMem `regs[14]`: BLK5 bank lo, 0x9FFE (R213). -/
def execUmRegs14 (acc : Access) (s : State) : Result := umRegister 14 acc s

/-- UltiMem `regs[15]`: BLK5 bank hi, 0x9FFF (R213). -/
def execUmRegs15 (acc : Access) (s : State) : Result := umRegister 15 acc s

/-! ## Final Expansion (45_final_expansion R241 to R245) -/

/-- An access to register A or B at one of its addresses in IO3, under the lock (R244, R245). -/
def feRegister (r : FeReg) (addr : Addr) (acc : Access) (s : State) : Result :=
  match s.ctrl with
  | .finalExpansion e =>
    if feRegisterAt addr = some r then
      match acc with
      | .load busLast _ => .next (s.answer (some (e.readReg r busLast)) (.finalExpansion e))
      | .store b _ => .next (s.answer none (.finalExpansion (e.writeReg r b)))
    else busAccess addr acc s
  | .ultiMem _ | .megaCart _ | .vicFlash _ => busAccess addr acc s

/-- Final Expansion register A: mode and bank or flags (R241, R242). -/
def execFeRegA (addr : Addr) (acc : Access) (s : State) : Result := feRegister .a addr acc s

/-- Final Expansion register B: lock, line inversion, block disables (R243). -/
def execFeRegB (addr : Addr) (acc : Access) (s : State) : Result := feRegister .b addr acc s

/-! ## MegaCart (46_megacart R282 to R284): write-only -/

/-- A control write: in IO3, where the row's decode of address bits 8 and 7 holds, the byte goes to NVRAM under the old
enable and then into the row's registers (R284). -/
def mcControlRow (addr : Addr) (b : Byte) (rmw : Bool) (s : State) (selected : Bool)
    (effect : MegaCart → MegaCart) : Result :=
  match s.ctrl with
  | .megaCart m =>
    if windowOf addr = some .io3 ∧ selected then
      .next (s.answer none (.megaCart (effect (m.storeNvram addr b))))
    else busWrite addr b rmw s
  | .ultiMem _ | .finalExpansion _ | .vicFlash _ => busWrite addr b rmw s

/-- MegaCart `bank_low` at `addr & 0x180 = 0x100` (R282, R284); at 0x180 the write is the control row's. -/
def execMcBankLow (addr : Addr) (b : Byte) (rmw : Bool) (s : State) : Result :=
  mcControlRow addr b rmw s (addr.getLsbD 8 && !addr.getLsbD 7) fun m => { m with bankLow := b }

/-- MegaCart `bank_high` at `addr & 0x180 = 0x080` (R283, R284); at 0x180 the write is the control row's. -/
def execMcBankHigh (addr : Addr) (b : Byte) (rmw : Bool) (s : State) : Result :=
  mcControlRow addr b rmw s (!addr.getLsbD 8 && addr.getLsbD 7) fun m => { m with bankHigh := b }

/-- MegaCart control at `addr & 0x180 = 0x180`: both banks, and `nvram_enable` is the complement of bit 0 (R284). -/
def execMcControl (addr : Addr) (b : Byte) (rmw : Bool) (s : State) : Result :=
  mcControlRow addr b rmw s (addr.getLsbD 8 && addr.getLsbD 7) fun m =>
    { m with bankLow := b, bankHigh := b, nvramEnable := !b.getLsbD 0 }

/-! ## VIC Flash Plugin (47_vic_flash_plugin R311 to R315) -/

/-- An access to the bank or the configuration register at one of its addresses in IO2, under the lock (R313, R314). -/
def vfpRegister (r : VfpReg) (addr : Addr) (acc : Access) (s : State) : Result :=
  match s.ctrl with
  | .vicFlash v =>
    if vfpRegisterAt addr = some r then
      match acc with
      | .load busLast _ => .next (s.answer (some (v.readReg r busLast)) (.vicFlash v))
      | .store b _ => .next (s.answer none (.vicFlash (v.writeReg r b)))
    else busAccess addr acc s
  | .ultiMem _ | .finalExpansion _ | .megaCart _ => busAccess addr acc s

/-- VIC Flash Plugin bank register (R311). -/
def execVfpBankReg (addr : Addr) (acc : Access) (s : State) : Result := vfpRegister .bank addr acc s

/-- VIC Flash Plugin configuration register (R312), with the `cfg_en` latch (R315). -/
def execVfpCfgReg (addr : Addr) (acc : Access) (s : State) : Result := vfpRegister .cfg addr acc s

end Sys2Proof.Machine
end

