-- ==== Sys2Proof/Machine/Dispatch.lean ====
section
/-! DEFINITION. One arm per operation: each calls its meaning. -/

namespace Sys2Proof.Machine

def exec (i : Instr) (s : State) : Host.Outcome State Fault Refusal :=
  match i with
  | .fReset => Sys2Proof.Machine.execFReset s
  | .fRead a cyc => Sys2Proof.Machine.execFRead a cyc s
  | .fStore a b => Sys2Proof.Machine.execFStore a b s
  | .fStoreRmw a b => Sys2Proof.Machine.execFStoreRmw a b s
  | .fPeek a => Sys2Proof.Machine.execFPeek a s
  | .cRead addr busLast cyc => Sys2Proof.Machine.execCRead addr busLast cyc s
  | .cWrite addr b rmw => Sys2Proof.Machine.execCWrite addr b rmw s
  | .cConfigRead addr busLast cyc => Sys2Proof.Machine.execCConfigRead addr busLast cyc s
  | .cConfigWrite addr b rmw => Sys2Proof.Machine.execCConfigWrite addr b rmw s
  | .cReset kind => Sys2Proof.Machine.execCReset kind s
  | .unlock1 a => Sys2Proof.Machine.execUnlock1 a s
  | .readIgnore a b => Sys2Proof.Machine.execReadIgnore a b s
  | .unlock2 a => Sys2Proof.Machine.execUnlock2 a s
  | .magic1Abort a b => Sys2Proof.Machine.execMagic1Abort a b s
  | .autoselect a => Sys2Proof.Machine.execAutoselect a s
  | .programSetup a => Sys2Proof.Machine.execProgramSetup a s
  | .eraseSetup a => Sys2Proof.Machine.execEraseSetup a s
  | .magic2Abort a b => Sys2Proof.Machine.execMagic2Abort a b s
  | .programData a b => Sys2Proof.Machine.execProgramData a b s
  | .eraseUnlock1 a => Sys2Proof.Machine.execEraseUnlock1 a s
  | .eraseMagic1Abort a b => Sys2Proof.Machine.execEraseMagic1Abort a b s
  | .eraseUnlock2 a => Sys2Proof.Machine.execEraseUnlock2 a s
  | .eraseMagic2Abort a b => Sys2Proof.Machine.execEraseMagic2Abort a b s
  | .chipErase a => Sys2Proof.Machine.execChipErase a s
  | .sectorErase a => Sys2Proof.Machine.execSectorErase a s
  | .eraseSelectAbort a b => Sys2Proof.Machine.execEraseSelectAbort a b s
  | .eraseSuspend a => Sys2Proof.Machine.execEraseSuspend a s
  | .sectorEraseIgnore a b => Sys2Proof.Machine.execSectorEraseIgnore a b s
  | .eraseResume a => Sys2Proof.Machine.execEraseResume a s
  | .sectorEraseSuspendIgnore a b => Sys2Proof.Machine.execSectorEraseSuspendIgnore a b s
  | .resetCmdAutoselect a => Sys2Proof.Machine.execResetCmdAutoselect a s
  | .autoselectIgnore a b => Sys2Proof.Machine.execAutoselectIgnore a b s
  | .resetCmdError a => Sys2Proof.Machine.execResetCmdError a s
  | .byteProgramErrorIgnore a b => Sys2Proof.Machine.execByteProgramErrorIgnore a b s
  | .byteProgramHappeningIgnore a b => Sys2Proof.Machine.execByteProgramHappeningIgnore a b s
  | .chipEraseIgnore a b => Sys2Proof.Machine.execChipEraseIgnore a b s
  | .umRegs0 acc => Sys2Proof.Machine.execUmRegs0 acc s
  | .umRegs1 acc => Sys2Proof.Machine.execUmRegs1 acc s
  | .umRegs2 acc => Sys2Proof.Machine.execUmRegs2 acc s
  | .umRegs3 acc => Sys2Proof.Machine.execUmRegs3 acc s
  | .umRegs4 acc => Sys2Proof.Machine.execUmRegs4 acc s
  | .umRegs5 acc => Sys2Proof.Machine.execUmRegs5 acc s
  | .umRegs6 acc => Sys2Proof.Machine.execUmRegs6 acc s
  | .umRegs7 acc => Sys2Proof.Machine.execUmRegs7 acc s
  | .umRegs8 acc => Sys2Proof.Machine.execUmRegs8 acc s
  | .umRegs9 acc => Sys2Proof.Machine.execUmRegs9 acc s
  | .umRegs10 acc => Sys2Proof.Machine.execUmRegs10 acc s
  | .umRegs11 acc => Sys2Proof.Machine.execUmRegs11 acc s
  | .umRegs12 acc => Sys2Proof.Machine.execUmRegs12 acc s
  | .umRegs13 acc => Sys2Proof.Machine.execUmRegs13 acc s
  | .umRegs14 acc => Sys2Proof.Machine.execUmRegs14 acc s
  | .umRegs15 acc => Sys2Proof.Machine.execUmRegs15 acc s
  | .feRegA addr acc => Sys2Proof.Machine.execFeRegA addr acc s
  | .feRegB addr acc => Sys2Proof.Machine.execFeRegB addr acc s
  | .mcBankLow addr b rmw => Sys2Proof.Machine.execMcBankLow addr b rmw s
  | .mcBankHigh addr b rmw => Sys2Proof.Machine.execMcBankHigh addr b rmw s
  | .mcControl addr b rmw => Sys2Proof.Machine.execMcControl addr b rmw s
  | .vfpBankReg addr acc => Sys2Proof.Machine.execVfpBankReg addr acc s
  | .vfpCfgReg addr acc => Sys2Proof.Machine.execVfpCfgReg addr acc s

end Sys2Proof.Machine
end

