-- ==== Sys2Proof/Machine/Step.lean ====
section
/-! DEFINITION. One step: the block carries out the oldest operation the host has issued (00_scope R3, 20_memory R64). -/

namespace Sys2Proof.Machine

/-- One step (log 2). With nothing issued the block does nothing: it has "no background activity" (R3). An operation runs
only as its own caller's, so that what a host issues reaches a buffer through the controller alone (R4, R353, log 20). -/
def step (s : State) : Host.Outcome State Fault Refusal :=
  match s.inbox with
  | [] => .next s
  | _ :: _ =>
    match decode s.inbox with
    | .error e => .refused (.badWord e)
    | .ok (i, rest) =>
      if i.issuer = s.caller then exec i { s with inbox := rest, caller := .host } else .refused .notTheCallers

/-- Whose operation the given bits are; the caller's at the time where they are no operation. -/
def State.callerOf (s : State) (nbits w : Nat) : Issuer :=
  match decodeTableWord nbits w with
  | some i => i.issuer
  | none => s.caller

/-- The state with an operation placed in front of the inbox, where the next step takes it, as its own caller's (log 2,
log 20). -/
def State.withFetchWord (s : State) (nbits w : Nat) : State :=
  { s with inbox := tableBytes nbits w ++ s.inbox, caller := s.callerOf nbits w }

end Sys2Proof.Machine
end

