-- ==== Sys2Proof/Machine/Attach.lean ====
section
/-! DEFINITION. Attach, the construction of a controller with any parameters and any buffer contents: "allocate buffers,
set FlashChip latches to their power-on values, then apply C.reset(POWER_ON)" (70_reset R361 to R363). It is no step of
the machine (log 17). -/

namespace Sys2Proof.Machine

/-- A FlashChip at attach: its latches at their power-on values over the host's array (10_state R16, R362). -/
def FlashChip.attach (g : Geometry) (initBacking : Memory) : FlashChip := ⟨g, .read, initBacking, 0x00, 0x00, false⟩

/-- An UltiMem at attach (R21, R366). -/
def attachUltiMem (p : UmParams) (ram : Buffer) (f : FlashChip) : Controller :=
  (Controller.ultiMem ⟨p.resetRegs, ram, f, p⟩).reset .powerOn

/-- A Final Expansion at attach (R23, R367). -/
def attachFinalExpansion (t : FeTable) (ram : Buffer) (f : FlashChip) : Controller :=
  (Controller.finalExpansion ⟨0x00, 0x00, true, ram, f, t⟩).reset .powerOn

/-- A MegaCart at attach (R25, R368). -/
def attachMegaCart (ram nvram rom : Buffer) : Controller :=
  (Controller.megaCart ⟨0x00, 0x00, false, true, ram, nvram, rom⟩).reset .powerOn

/-- A VIC Flash Plugin at attach (R27, R369). -/
def attachVicFlash (ram : Buffer) (f : FlashChip) : Controller :=
  (Controller.vicFlash ⟨0x00, 0x40, true, ram, f⟩).reset .powerOn

end Sys2Proof.Machine
end

