-- ==== Sys2Proof/Safety.lean ====
section
/-! DEFINITION. The terms statements are made in: the invariant of the machine, the parts of a controller that nothing
changes, and names for a state with one part replaced. -/

namespace Sys2Proof

/-- The constraints on a geometry (00_scope 5.1, D2, D4): at least one sector, and magic addresses under their mask. -/
abbrev Geometry.wf (g : Geometry) : Prop :=
  16 ≤ g.sizeLog ∧ g.magic1Addr &&& g.scheme.mask = g.magic1Addr ∧ g.magic2Addr &&& g.scheme.mask = g.magic2Addr

/-- What an operation addresses. -/
inductive Target
  /-- The controller as a whole (C.reset). -/
  | controller
  /-- The chip as a whole (F.reset). -/
  | chip
  /-- An offset of the chip, beneath the controller (log 20). -/
  | offset (a : Offset)
  /-- A CPU address, through the controller (R184, R185). -/
  | cpu (addr : Addr)
  deriving DecidableEq, Repr

/-- What each operation addresses (30_encoding R80, R81, R89). -/
def Instr.target : Instr → Target
  | .cReset _ => .controller
  | .fReset => .chip
  | .fRead a _ | .fStore a _ | .fStoreRmw a _ | .fPeek a | .unlock1 a | .readIgnore a _ | .unlock2 a
  | .magic1Abort a _ | .autoselect a | .programSetup a | .eraseSetup a | .magic2Abort a _ | .programData a _
  | .eraseUnlock1 a | .eraseMagic1Abort a _ | .eraseUnlock2 a | .eraseMagic2Abort a _ | .chipErase a | .sectorErase a
  | .eraseSelectAbort a _ | .eraseSuspend a | .sectorEraseIgnore a _ | .eraseResume a | .sectorEraseSuspendIgnore a _
  | .resetCmdAutoselect a | .autoselectIgnore a _ | .resetCmdError a | .byteProgramErrorIgnore a _
  | .byteProgramHappeningIgnore a _ | .chipEraseIgnore a _ => .offset a
  | .cRead addr _ _ | .cWrite addr _ _ | .cConfigRead addr _ _ | .cConfigWrite addr _ _ | .feRegA addr _
  | .feRegB addr _ | .mcBankLow addr _ _ | .mcBankHigh addr _ _ | .mcControl addr _ _ | .vfpBankReg addr _
  | .vfpCfgReg addr _ => .cpu addr
  | .umRegs0 _ => .cpu 0x9FF0
  | .umRegs1 _ => .cpu 0x9FF1
  | .umRegs2 _ => .cpu 0x9FF2
  | .umRegs3 _ => .cpu 0x9FF3
  | .umRegs4 _ => .cpu 0x9FF4
  | .umRegs5 _ => .cpu 0x9FF5
  | .umRegs6 _ => .cpu 0x9FF6
  | .umRegs7 _ => .cpu 0x9FF7
  | .umRegs8 _ => .cpu 0x9FF8
  | .umRegs9 _ => .cpu 0x9FF9
  | .umRegs10 _ => .cpu 0x9FFA
  | .umRegs11 _ => .cpu 0x9FFB
  | .umRegs12 _ => .cpu 0x9FFC
  | .umRegs13 _ => .cpu 0x9FFD
  | .umRegs14 _ => .cpu 0x9FFE
  | .umRegs15 _ => .cpu 0x9FFF

/-- The byte an access stores and its read-modify-write flag, where it is a store. -/
def Access.stored? : Access → Option (Byte × Bool)
  | .load _ _ => none
  | .store b rmw => some (b, rmw)

/-- The byte an operation stores and its read-modify-write flag, where it is a store (R81, R83, R107, R108, R185). -/
def Instr.stored? : Instr → Option (Byte × Bool)
  | .fReset | .fRead _ _ | .fPeek _ | .cRead _ _ _ | .cConfigRead _ _ _ | .cReset _ => none
  | .fStore _ b => some (b, false)
  | .fStoreRmw _ b => some (b, true)
  | .cWrite _ b rmw | .cConfigWrite _ b rmw | .mcBankLow _ b rmw | .mcBankHigh _ b rmw | .mcControl _ b rmw =>
    some (b, rmw)
  | .unlock1 _ | .eraseUnlock1 _ => some (0xAA, false)
  | .unlock2 _ | .eraseUnlock2 _ => some (0x55, false)
  | .autoselect _ => some (0x90, false)
  | .programSetup _ => some (0xA0, false)
  | .eraseSetup _ => some (0x80, false)
  | .chipErase _ => some (0x10, false)
  | .sectorErase _ | .eraseResume _ => some (0x30, false)
  | .eraseSuspend _ => some (0xB0, false)
  | .resetCmdAutoselect _ | .resetCmdError _ => some (0xF0, false)
  | .readIgnore _ b | .magic1Abort _ b | .magic2Abort _ b | .programData _ b | .eraseMagic1Abort _ b
  | .eraseMagic2Abort _ b | .eraseSelectAbort _ b | .sectorEraseIgnore _ b | .sectorEraseSuspendIgnore _ b
  | .autoselectIgnore _ b | .byteProgramErrorIgnore _ b | .byteProgramHappeningIgnore _ b | .chipEraseIgnore _ b =>
    some (b, false)
  | .umRegs0 acc | .umRegs1 acc | .umRegs2 acc | .umRegs3 acc | .umRegs4 acc | .umRegs5 acc | .umRegs6 acc
  | .umRegs7 acc | .umRegs8 acc | .umRegs9 acc | .umRegs10 acc | .umRegs11 acc | .umRegs12 acc | .umRegs13 acc
  | .umRegs14 acc | .umRegs15 acc | .feRegA _ acc | .feRegB _ acc | .vfpBankReg _ acc | .vfpCfgReg _ acc => acc.stored?

end Sys2Proof

namespace Sys2Proof.Machine

/-- A buffer in canonical form that lists no byte beyond its length. -/
abbrev Buffer.wf (b : Buffer) : Prop := Memory.wf b.cells ∧ Memory.within b.cells b.size

/-- A flash chip whose array is canonical and "of length exactly G.size" (10_state R12). -/
abbrev FlashChip.wf (f : FlashChip) : Prop :=
  f.geometry.wf ∧ Memory.wf f.backing ∧ Memory.within f.backing f.geometry.size

/-- The bits UM_WMASK masks off are hard-wired to 0 (44_ultimem R214), in the registers and in their reset values
(93 I27). -/
abbrev UltiMem.wf (u : UltiMem) : Prop :=
  u.ram.wf ∧ u.flash.wf ∧ (∀ i : Fin 16, u.regs.get i &&& ~~~ u.params.wmask.get i = 0) ∧
    ∀ i : Fin 16, u.params.resetRegs.get i &&& ~~~ u.params.wmask.get i = 0

abbrev FinalExpansion.wf (e : FinalExpansion) : Prop := e.ram.wf ∧ e.flash.wf

abbrev MegaCart.wf (m : MegaCart) : Prop := m.ram.wf ∧ m.nvram.wf ∧ m.rom.wf

/-- `V.cfg_en = 1 - V.cfg_reg[7]` "holds after reset and after every operation" (47_vic_flash_plugin R315). -/
abbrev VicFlash.wf (v : VicFlash) : Prop := v.ram.wf ∧ v.flash.wf ∧ v.cfgEn = !v.cfgReg.getLsbD 7

/-- The invariant of a controller. -/
def Controller.wf : Controller → Prop
  | .ultiMem u => u.wf
  | .finalExpansion e => e.wf
  | .megaCart m => m.wf
  | .vicFlash v => v.wf

/-- The invariant of the machine. -/
def State.Inv (s : State) : Prop := s.ctrl.wf

/-- The length of a read-write buffer of the attached variant. -/
def Controller.bufferSize (c : Controller) (buf : BufferName) : Nat :=
  match c, buf with
  | .ultiMem u, _ => u.ram.size
  | .finalExpansion e, _ => e.ram.size
  | .megaCart m, .ram => m.ram.size
  | .megaCart m, .nvram => m.nvram.size
  | .vicFlash v, _ => v.ram.size

/-- The parts fixed at attach: the variant, the geometry and the OPEN parameters, the lengths, MegaCart's ROM. -/
def Controller.sameFixed : Controller → Controller → Prop
  | .ultiMem u, .ultiMem u' =>
    u'.params = u.params ∧ u'.flash.geometry = u.flash.geometry ∧ u'.ram.sizeLog = u.ram.sizeLog
  | .finalExpansion e, .finalExpansion e' =>
    e'.table = e.table ∧ e'.flash.geometry = e.flash.geometry ∧ e'.ram.sizeLog = e.ram.sizeLog
  | .megaCart m, .megaCart m' =>
    m'.rom = m.rom ∧ m'.ram.sizeLog = m.ram.sizeLog ∧ m'.nvram.sizeLog = m.nvram.sizeLog
  | .vicFlash v, .vicFlash v' => v'.flash.geometry = v.flash.geometry ∧ v'.ram.sizeLog = v.ram.sizeLog
  | _, _ => False

/-- Two controllers of one variant that hold the same buffers: RAM, NVRAM, ROM and flash array. -/
def Controller.sameBuffers : Controller → Controller → Prop
  | .ultiMem u, .ultiMem u' => u'.ram = u.ram ∧ u'.flash.backing = u.flash.backing
  | .finalExpansion e, .finalExpansion e' => e'.ram = e.ram ∧ e'.flash.backing = e.flash.backing
  | .megaCart m, .megaCart m' => m'.ram = m.ram ∧ m'.nvram = m.nvram ∧ m'.rom = m.rom
  | .vicFlash v, .vicFlash v' => v'.ram = v.ram ∧ v'.flash.backing = v.flash.backing
  | _, _ => False

/-- The state after a chip operation that returns `out`: the chip replaced, nothing else changed. -/
def State.withChip (s : State) (f : FlashChip) (out : Option Byte) : State := s.answer out (s.ctrl.withFlash f)

/-- A controller with one read-write buffer replaced. -/
def Controller.withBuffer (c : Controller) (buf : BufferName) (r : Buffer) : Controller :=
  match c, buf with
  | .ultiMem u, _ => .ultiMem { u with ram := r }
  | .finalExpansion e, _ => .finalExpansion { e with ram := r }
  | .megaCart m, .ram => .megaCart { m with ram := r }
  | .megaCart m, .nvram => .megaCart { m with nvram := r }
  | .vicFlash v, _ => .vicFlash { v with ram := r }

/-- The operation delivers a store of `b` at offset `o` to the chip: addressed to that offset of the chip itself
(log 20), or to a CPU address whose window resolves to that flash offset for stores, with no write-protect (R185). -/
def State.deliversStore (s : State) (i : Instr) (o : Nat) (b : Byte) (rmw : Bool) : Prop :=
  i.stored? = some (b, rmw) ∧
  match i.target with
  | .controller | .chip => False
  | .offset a => o = a.toNat
  | .cpu addr => ∃ w, s.ctrl.window? addr = some w ∧ (s.ctrl.writeHook w addr b).resolve w addr .store = .flash o ∧
      s.ctrl.writeProtected = false

/-- A store that reaches PROGRAM_DATA or the erase select: from one of those two states, or for a read-modify-write
store from a state that its stale cycle turns into one of them (R108, R130, R135, R136). -/
def FlashChip.mayAlter (f : FlashChip) (o : Nat) (rmw : Bool) : Prop :=
  f.state = .byteProgram ∨ f.state = .eraseSelect ∨
    (rmw = true ∧ ((f.transition o f.lastRead).state = .byteProgram ∨ (f.transition o f.lastRead).state = .eraseSelect))

/-- The sixteen UltiMem register rows with their register numbers (44_ultimem R211). -/
def umRows : List (Fin 16 × (Access → Instr)) :=
  [(0, .umRegs0), (1, .umRegs1), (2, .umRegs2), (3, .umRegs3), (4, .umRegs4), (5, .umRegs5), (6, .umRegs6),
   (7, .umRegs7), (8, .umRegs8), (9, .umRegs9), (10, .umRegs10), (11, .umRegs11), (12, .umRegs12),
   (13, .umRegs13), (14, .umRegs14), (15, .umRegs15)]

end Sys2Proof.Machine
end

