-- ==== Sys2Proof/Certificates/Slice0/Obligations.lean ====
section
/-! DEFINITION. The statements for the provers. A premise `s.Inv` rules out states no run reaches; that every step keeps
it is `StepKeepsInvariant`. A premise `s.ctrl.flash? = some f` says that a chip is attached; every variant but MegaCart
has one. -/

open Sys2Proof Sys2Proof.Machine

/-! ## Attach, reset and the step -/

/-- R361 to R363, R16, R21, R23, R25, R27: attach with any parameters and contents. The last clause is the model's
choice (log 4, log 5): after reset the attached cartridge is a blank UltiMem with the default registers of R366. -/
def Obligations.AttachedState : Prop :=
  (∀ p ram g back, ∃ u, attachUltiMem p ram (FlashChip.attach g back) = .ultiMem u ∧ u.regs = p.resetRegs ∧
      u.params = p ∧ u.ram = ram ∧ u.flash = ⟨g, .read, back, 0x00, 0x00, false⟩) ∧
  (∀ t ram g back, ∃ e, attachFinalExpansion t ram (FlashChip.attach g back) = .finalExpansion e ∧ e.regA = 0x00 ∧
      e.regB = 0x00 ∧ e.lockBit = true ∧ e.table = t ∧ e.ram = ram ∧
      e.flash = ⟨g, .read, back, 0x00, 0x00, false⟩) ∧
  (∀ ram nvram rom, attachMegaCart ram nvram rom = .megaCart ⟨0x00, 0x00, false, true, ram, nvram, rom⟩) ∧
  (∀ ram g back, attachVicFlash ram (FlashChip.attach g back) =
      .vicFlash ⟨0x00, 0x40, true, ram, ⟨g, .read, back, 0x00, 0x00, false⟩⟩) ∧
  ∃ u, State.reset = ⟨.ultiMem u, [], none, .host⟩ ∧ (∀ i : Fin 16, u.regs.get i = if i = 2 then 0x40 else 0x00) ∧
    (∀ o, u.flash.byteAt o = 0xFF) ∧ u.flash.state = .read

/-- The invariant of Safety.lean holds at reset (log 4). -/
def Obligations.ResetMeetsInvariant : Prop := State.reset.Inv

/-- Every step keeps the invariant: memories canonical and inside their buffers (R12, R63), hard-wired bits of the
UltiMem registers 0 (R214), `cfg_en` the complement of `cfg_reg[7]` (R315). -/
def Obligations.StepKeepsInvariant : Prop := ∀ s s' : State, s.Inv → step s = .next s' → s'.Inv

/-- A step runs the operation at the front of the inbox, which is well-formed, and takes it out (log 2), where it is an
operation of its caller's, and refuses it where it is not (R4, R353; log 20). -/
def Obligations.StepRunsDecodedOperation : Prop :=
  ∀ (s : State) (i : Instr) (rest : List Byte), decode s.inbox = .ok (i, rest) →
    i.wellFormed = true ∧ (i.issuer = s.caller → step s = exec i { s with inbox := rest, caller := .host }) ∧
    (i.issuer ≠ s.caller → step s = .refused .notTheCallers)

/-- R3: with nothing issued the block does nothing; bytes that are no operation are refused (log 1, log 2). -/
def Obligations.StepWithNothingToRun : Prop :=
  ∀ s : State, (s.inbox = [] → step s = .next s) ∧
    ∀ e, s.inbox ≠ [] → decode s.inbox = .error e → step s = .refused (.badWord e)

/-! ## Decoding (the words are the model's own, log 1) -/

/-- Decoding an encoded well-formed operation gives it back, whatever follows it. -/
def Obligations.DecodeOfEncode : Prop :=
  ∀ (i : Instr) (rest : List Byte), i.wellFormed = true → decode (encode i ++ rest) = .ok (i, rest)

/-- Whatever decodes is well-formed, and its bytes are the encoding of what it decodes to. -/
def Obligations.DecodedBytesAreEncoded : Prop :=
  ∀ (bs rest : List Byte) (i : Instr), decode bs = .ok (i, rest) → i.wellFormed = true ∧ bs = encode i ++ rest

/-- R83: the nine command bytes, each as the first row of the table that lists it. -/
def Obligations.CommandBytesDecode : Prop :=
  decodeTableWord 8 0xAA = some (.unlock1 0) ∧ decodeTableWord 8 0x55 = some (.unlock2 0) ∧
  decodeTableWord 8 0x90 = some (.autoselect 0) ∧ decodeTableWord 8 0xA0 = some (.programSetup 0) ∧
  decodeTableWord 8 0x80 = some (.eraseSetup 0) ∧ decodeTableWord 8 0x10 = some (.chipErase 0) ∧
  decodeTableWord 8 0x30 = some (.sectorErase 0) ∧ decodeTableWord 8 0xB0 = some (.eraseSuspend 0) ∧
  decodeTableWord 8 0xF0 = some (.resetCmdAutoselect 0)

/-! ## Memory and the data path of the flash -/

/-- Two memories in canonical form that read alike are the same data. -/
def Obligations.CanonicalMemoriesAreEqual : Prop :=
  ∀ m n : Memory, m.wf → n.wf → (∀ a, m.byteAt a = n.byteAt a) → m = n

/-- R160: AND-merge of one byte, the two latches, success exactly where no bit would have to be set. -/
def Obligations.ProgramMergesBits : Prop :=
  ∀ (f : FlashChip) (a : Nat) (b : Byte), f.wf →
    (f.program a b).byteAt a = f.byteAt a &&& b ∧ (∀ o, o ≠ a → (f.program a b).byteAt o = f.byteAt o) ∧
    (f.program a b).dirty = true ∧ (f.program a b).lastProgrammed = b ∧ (f.program a b).state = f.state ∧
    (f.program a b).lastRead = f.lastRead ∧ (f.program a b).geometry = f.geometry ∧
    (programSucceeds (f.byteAt a) b = true ↔ b &&& ~~~ f.byteAt a = 0)

/-- R161, R162: a second identical program changes nothing and succeeds as the first did; programming 0xFF afterwards
sets no bit back. -/
def Obligations.ProgramIsIdempotent : Prop :=
  ∀ (f : FlashChip) (a : Nat) (x : Byte), f.wf →
    (f.program a x).program a x = f.program a x ∧
    programSucceeds ((f.program a x).byteAt a) x = programSucceeds (f.byteAt a) x ∧
    ((f.program a x).program a 0xFF).byteAt a = f.byteAt a &&& x

/-! ## FlashChip bus operations -/

/-- R100: F.reset sets the state to READ and changes no other field. -/
def Obligations.FlashResetCompletes : Prop :=
  ∀ (s : State) (f : FlashChip), s.ctrl.flash? = some f →
    exec .fReset s = .next (s.withChip { f with state := .read } none)

/-- R102, R106: a read in AUTOSELECT returns an ID byte, 0 or array data by the low address byte, and latches it. -/
def Obligations.ReadInAutoselect : Prop :=
  ∀ (s : State) (f : FlashChip) (a : Offset) (cyc : Cycle) (v : Byte), s.ctrl.flash? = some f →
    a.toNat < f.geometry.size → f.state = .autoselect →
    v = (if a.toNat % 256 = 0 then f.geometry.manufacturerId else if a.toNat % 256 = 1 then f.geometry.deviceId
      else if a.toNat % 256 = 2 then 0x00 else f.byteAt a.toNat) →
    exec (.fRead a cyc) s = .next (s.withChip { f with lastRead := v } (some v))

/-- R103, R87: a read in BYTE_PROGRAM_ERROR returns the status byte at every address: bit 7 the complement of bit 7 of
the last programmed byte, bit 6 bit 1 of the cycle counter, bit 5 set, bits 4 to 0 clear. -/
def Obligations.ReadInProgramError : Prop :=
  ∀ (s : State) (f : FlashChip) (a : Offset) (cyc : Cycle), s.ctrl.flash? = some f →
    a.toNat < f.geometry.size → f.state = .byteProgramError →
    ∃ v : Byte, exec (.fRead a cyc) s = .next (s.withChip { f with lastRead := v } (some v)) ∧
      v.getLsbD 7 = !f.lastProgrammed.getLsbD 7 ∧ v.getLsbD 6 = cyc.getLsbD 1 ∧ v.getLsbD 5 = true ∧
      ∀ k, k < 5 → v.getLsbD k = false

/-- R104, R106: in the eight other resting states a read returns array data and leaves the state. -/
def Obligations.ReadReturnsArray : Prop :=
  ∀ (s : State) (f : FlashChip) (a : Offset) (cyc : Cycle), s.ctrl.flash? = some f →
    a.toNat < f.geometry.size →
    f.state ∈ [SeqState.read, .magic1, .magic2, .byteProgram, .eraseMagic1, .eraseMagic2, .eraseSelect,
      .sectorEraseSuspend] →
    exec (.fRead a cyc) s =
      .next (s.withChip { f with lastRead := f.byteAt a.toNat } (some (f.byteAt a.toNat)))

/-- R105, R106: after a program, a chip erase or a sector erase a read at any address returns array data and puts the
sequencer back to READ. -/
def Obligations.ReadDemotesFinishedStates : Prop :=
  ∀ (s : State) (f : FlashChip) (a : Offset) (cyc : Cycle), s.ctrl.flash? = some f →
    a.toNat < f.geometry.size → f.state ∈ [SeqState.byteProgramHappening, .chipErase, .sectorErase] →
    exec (.fRead a cyc) s =
      .next (s.withChip { f with state := .read, lastRead := f.byteAt a.toNat } (some (f.byteAt a.toNat)))

/-- R107: a plain store is one transition of the sequencer, returns nothing and never writes the last-read latch. -/
def Obligations.StoreIsOneTransition : Prop :=
  ∀ (s : State) (f : FlashChip) (a : Offset) (b : Byte), s.ctrl.flash? = some f → a.toNat < f.geometry.size →
    exec (.fStore a b) s = .next (s.withChip (f.transition a.toNat b) none) ∧
      (f.transition a.toNat b).lastRead = f.lastRead

/-- R108: a read-modify-write store is a store of the byte last read and then the real store. In BYTE_PROGRAM it
programs the stale byte, and the byte given is not programmed (first corner case, R373). -/
def Obligations.RmwStoreIsTwoStores : Prop :=
  ∀ (s : State) (f : FlashChip) (a : Offset) (b : Byte), s.ctrl.flash? = some f → a.toNat < f.geometry.size →
    (∃ t u, exec (.fStore a f.lastRead) s = .next t ∧ exec (.fStore a b) t = .next u ∧
      exec (.fStoreRmw a b) s = .next u) ∧
    (s.Inv → f.state = .byteProgram →
      ∃ g, exec (.fStoreRmw a b) s = .next (s.withChip g none) ∧
        g.byteAt a.toNat = f.byteAt a.toNat &&& f.lastRead ∧ (∀ o, o ≠ a.toNat → g.byteAt o = f.byteAt o) ∧
        g.lastProgrammed = f.lastRead ∧ g.dirty = true ∧ g.lastRead = f.lastRead)

/-- R110: a peek returns the array byte in every state and changes nothing. -/
def Obligations.PeekCompletes : Prop :=
  ∀ (s : State) (f : FlashChip) (a : Offset), s.ctrl.flash? = some f → a.toNat < f.geometry.size →
    exec (.fPeek a) s = .next { s with dataOut := some (f.byteAt a.toNat) }

/-! ## The command sequencer -/

/-- The table of R148, which the spec marks as its own inference: the successors of every state by store, by read and
by reset. -/
def Obligations.SequencerSuccessors : Prop :=
  ∀ (f : FlashChip) (a : Nat) (b : Byte) (cyc : Cycle),
    (f.transition a b).state ∈ (match f.state with
      | .read => [SeqState.magic1, .read]
      | .magic1 => [SeqState.magic2, .read]
      | .magic2 => [SeqState.autoselect, .byteProgram, .eraseMagic1, .read]
      | .autoselect => [SeqState.read, .autoselect]
      | .byteProgram => [SeqState.byteProgramHappening, .byteProgramError]
      | .byteProgramHappening => [SeqState.byteProgramHappening]
      | .byteProgramError => [SeqState.read, .byteProgramError]
      | .eraseMagic1 => [SeqState.eraseMagic2, .read]
      | .eraseMagic2 => [SeqState.eraseSelect, .read]
      | .eraseSelect => [SeqState.chipErase, .sectorErase, .read]
      | .chipErase => [SeqState.chipErase]
      | .sectorErase => [SeqState.sectorEraseSuspend, .sectorErase]
      | .sectorEraseSuspend => [SeqState.sectorErase, .sectorEraseSuspend]) ∧
    (f.read a cyc).2.state = (if f.state ∈ [SeqState.byteProgramHappening, .chipErase, .sectorErase] then .read
      else f.state) ∧
    f.reset.state = .read

/-- R149, which the spec marks as its own inference: a store changes a byte of the array only by programming that
byte, by a chip erase, or by erasing the sector that holds it. -/
def Obligations.ArrayChangesOnlyByProgramOrErase : Prop :=
  ∀ (f : FlashChip) (a o : Nat) (b : Byte), (f.transition a b).byteAt o ≠ f.byteAt o →
    (f.state = .byteProgram ∧ o = a) ∨ (f.state = .eraseSelect ∧ b = 0x10 ∧ f.geometry.magic1 a = true) ∨
    (f.state = .eraseSelect ∧ b = 0x30 ∧ o / 0x10000 = a / 0x10000)

/-- R122, R124, R126, R127, R128, R131, R133: each unlock and set-up cycle in its state and at its magic address moves
the sequencer on and changes nothing else. -/
def Obligations.UnlockAndSetupRows : Prop :=
  ∀ (s : State) (f : FlashChip) (a : Offset), s.ctrl.flash? = some f → a.toNat < f.geometry.size →
    (f.geometry.magic1 a.toNat = true →
      (f.state = .read → exec (.unlock1 a) s = .next (s.withChip { f with state := .magic1 } none)) ∧
      (f.state = .magic2 → exec (.autoselect a) s = .next (s.withChip { f with state := .autoselect } none) ∧
        exec (.programSetup a) s = .next (s.withChip { f with state := .byteProgram } none) ∧
        exec (.eraseSetup a) s = .next (s.withChip { f with state := .eraseMagic1 } none)) ∧
      (f.state = .eraseMagic1 →
        exec (.eraseUnlock1 a) s = .next (s.withChip { f with state := .eraseMagic2 } none))) ∧
    (f.geometry.magic2 a.toNat = true →
      (f.state = .magic1 → exec (.unlock2 a) s = .next (s.withChip { f with state := .magic2 } none)) ∧
      (f.state = .eraseMagic2 →
        exec (.eraseUnlock2 a) s = .next (s.withChip { f with state := .eraseSelect } none)))

/-- R125, R129, R132, R134, R137: a cycle that is no command of an unlock or select state goes back to READ and
changes nothing else. -/
def Obligations.AbortRows : Prop :=
  ∀ (s : State) (f : FlashChip) (a : Offset) (b : Byte), s.ctrl.flash? = some f → a.toNat < f.geometry.size →
    (f.state = .magic1 → ¬ (f.geometry.magic2 a.toNat = true ∧ b = 0x55) →
      exec (.magic1Abort a b) s = .next (s.withChip { f with state := .read } none)) ∧
    (f.state = .magic2 → ¬ (f.geometry.magic1 a.toNat = true ∧ (b = 0x90 ∨ b = 0xA0 ∨ b = 0x80)) →
      exec (.magic2Abort a b) s = .next (s.withChip { f with state := .read } none)) ∧
    (f.state = .eraseMagic1 → ¬ (f.geometry.magic1 a.toNat = true ∧ b = 0xAA) →
      exec (.eraseMagic1Abort a b) s = .next (s.withChip { f with state := .read } none)) ∧
    (f.state = .eraseMagic2 → ¬ (f.geometry.magic2 a.toNat = true ∧ b = 0x55) →
      exec (.eraseMagic2Abort a b) s = .next (s.withChip { f with state := .read } none)) ∧
    (f.state = .eraseSelect → ¬ (f.geometry.magic1 a.toNat = true ∧ b = 0x10) → b ≠ 0x30 →
      exec (.eraseSelectAbort a b) s = .next (s.withChip { f with state := .read } none))

/-- R123, R139, R141, R143, R145, R146, R147: an ignored cycle changes nothing at all. -/
def Obligations.IgnoreRows : Prop :=
  ∀ (s : State) (f : FlashChip) (a : Offset) (b : Byte), s.ctrl.flash? = some f → a.toNat < f.geometry.size →
    (f.state = .read → ¬ (f.geometry.magic1 a.toNat = true ∧ b = 0xAA) →
      exec (.readIgnore a b) s = .next { s with dataOut := none }) ∧
    (f.state = .sectorErase → b ≠ 0xB0 → exec (.sectorEraseIgnore a b) s = .next { s with dataOut := none }) ∧
    (f.state = .sectorEraseSuspend → b ≠ 0x30 →
      exec (.sectorEraseSuspendIgnore a b) s = .next { s with dataOut := none }) ∧
    (f.state = .autoselect → b ≠ 0xF0 → exec (.autoselectIgnore a b) s = .next { s with dataOut := none }) ∧
    (f.state = .byteProgramError → b ≠ 0xF0 →
      exec (.byteProgramErrorIgnore a b) s = .next { s with dataOut := none }) ∧
    (f.state = .byteProgramHappening →
      exec (.byteProgramHappeningIgnore a b) s = .next { s with dataOut := none }) ∧
    (f.state = .chipErase → exec (.chipEraseIgnore a b) s = .next { s with dataOut := none })

/-- R138, R140, R142, R144: suspend, resume and the two reset commands, at every address, move the sequencer and
change nothing else. -/
def Obligations.SuspendResumeResetRows : Prop :=
  ∀ (s : State) (f : FlashChip) (a : Offset), s.ctrl.flash? = some f → a.toNat < f.geometry.size →
    (f.state = .sectorErase →
      exec (.eraseSuspend a) s = .next (s.withChip { f with state := .sectorEraseSuspend } none)) ∧
    (f.state = .sectorEraseSuspend →
      exec (.eraseResume a) s = .next (s.withChip { f with state := .sectorErase } none)) ∧
    (f.state = .autoselect →
      exec (.resetCmdAutoselect a) s = .next (s.withChip { f with state := .read } none)) ∧
    (f.state = .byteProgramError →
      exec (.resetCmdError a) s = .next (s.withChip { f with state := .read } none))

/-- R130, R160, R345: the program data cycle at any address with any byte merges one byte, latches the byte asked for,
sets dirty, and enters BYTE_PROGRAM_HAPPENING or, where a bit would have to be set, BYTE_PROGRAM_ERROR. -/
def Obligations.ProgramDataRow : Prop :=
  ∀ (s : State) (f : FlashChip) (a : Offset) (b : Byte), s.Inv → s.ctrl.flash? = some f →
    a.toNat < f.geometry.size → f.state = .byteProgram →
    ∃ g, exec (.programData a b) s = .next (s.withChip g none) ∧
      g.byteAt a.toNat = f.byteAt a.toNat &&& b ∧ (∀ o, o ≠ a.toNat → g.byteAt o = f.byteAt o) ∧
      g.state = (if b &&& ~~~ f.byteAt a.toNat = 0 then .byteProgramHappening else .byteProgramError) ∧
      g.lastProgrammed = b ∧ g.dirty = true ∧ g.lastRead = f.lastRead ∧ g.geometry = f.geometry

/-- R135, R163: the chip erase cycle fills the whole array with 0xFF and sets dirty. -/
def Obligations.ChipEraseRow : Prop :=
  ∀ (s : State) (f : FlashChip) (a : Offset), s.ctrl.flash? = some f → a.toNat < f.geometry.size →
    f.state = .eraseSelect → f.geometry.magic1 a.toNat = true →
    ∃ g, exec (.chipErase a) s = .next (s.withChip g none) ∧ g.state = .chipErase ∧ g.dirty = true ∧
      (∀ o, o < f.geometry.size → g.byteAt o = 0xFF) ∧ g.lastProgrammed = f.lastProgrammed ∧
      g.lastRead = f.lastRead ∧ g.geometry = f.geometry

/-- R136, R164: the sector erase cycle at any address fills the 64 KiB sector that holds it with 0xFF, leaves every
other byte, and sets dirty. -/
def Obligations.SectorEraseRow : Prop :=
  ∀ (s : State) (f : FlashChip) (a : Offset), s.ctrl.flash? = some f → a.toNat < f.geometry.size →
    f.state = .eraseSelect →
    ∃ g, exec (.sectorErase a) s = .next (s.withChip g none) ∧ g.state = .sectorErase ∧ g.dirty = true ∧
      (∀ o, g.byteAt o = if o / 0x10000 = a.toNat / 0x10000 then 0xFF else f.byteAt o) ∧
      g.lastProgrammed = f.lastProgrammed ∧ g.lastRead = f.lastRead ∧ g.geometry = f.geometry

/-- R85, R91: in every state, each row of the table is the store of its byte, so the rows and the pseudocode of R121
are one machine. -/
def Obligations.CommandRowsAgreeWithStore : Prop :=
  ∀ (s : State) (a : Offset) (b : Byte),
    (∀ i ∈ [Instr.readIgnore a b, .magic1Abort a b, .magic2Abort a b, .programData a b, .eraseMagic1Abort a b,
        .eraseMagic2Abort a b, .eraseSelectAbort a b, .sectorEraseIgnore a b, .sectorEraseSuspendIgnore a b,
        .autoselectIgnore a b, .byteProgramErrorIgnore a b, .byteProgramHappeningIgnore a b, .chipEraseIgnore a b],
      exec i s = exec (.fStore a b) s) ∧
    ∀ p ∈ [(Instr.unlock1 a, 0xAA#8), (.unlock2 a, 0x55#8), (.autoselect a, 0x90#8), (.programSetup a, 0xA0#8),
        (.eraseSetup a, 0x80#8), (.eraseUnlock1 a, 0xAA#8), (.eraseUnlock2 a, 0x55#8), (.chipErase a, 0x10#8),
        (.sectorErase a, 0x30#8), (.eraseSuspend a, 0xB0#8), (.eraseResume a, 0x30#8),
        (.resetCmdAutoselect a, 0xF0#8), (.resetCmdError a, 0xF0#8)],
      exec p.1 s = exec (.fStore a p.2) s

/-- R120, R122 to R125: from READ, two stores reach MAGIC_2 exactly when they are 0xAA at the first magic address and
0x55 at the second. An address is magic when its low 15 bits (scheme A) or 11 bits (scheme B) are the geometry's magic
address. -/
def Obligations.UnlockReachesMagic2Exactly : Prop :=
  ∀ (s : State) (f : FlashChip) (a1 a2 : Offset) (b1 b2 : Byte), s.ctrl.flash? = some f → f.state = .read →
    a1.toNat < f.geometry.size → a2.toNat < f.geometry.size →
    ∃ t u g, exec (.fStore a1 b1) s = .next t ∧ exec (.fStore a2 b2) t = .next u ∧ u = s.withChip g none ∧
      let window := match f.geometry.scheme with | .a => 0x8000 | .b => 0x800
      (f.geometry.magic1 a1.toNat = true ↔ a1.toNat % window = f.geometry.magic1Addr) ∧
      (f.geometry.magic2 a2.toNat = true ↔ a2.toNat % window = f.geometry.magic2Addr) ∧
      (g.state = .magic2 ↔ (a1.toNat % window = f.geometry.magic1Addr ∧ b1 = 0xAA) ∧
        a2.toNat % window = f.geometry.magic2Addr ∧ b2 = 0x55)

/-- R372, which the spec marks as its own inference: after a program or a chip erase every store is ignored, plain or
read-modify-write; after a sector erase every plain store but 0xB0. -/
def Obligations.StoresIgnoredUntilRead : Prop :=
  ∀ (s : State) (f : FlashChip) (a : Offset) (b : Byte), s.ctrl.flash? = some f → a.toNat < f.geometry.size →
    (f.state ∈ [SeqState.byteProgramHappening, .chipErase] →
      exec (.fStore a b) s = .next { s with dataOut := none } ∧
      exec (.fStoreRmw a b) s = .next { s with dataOut := none }) ∧
    (f.state = .sectorErase → b ≠ 0xB0 → exec (.fStore a b) s = .next { s with dataOut := none })

/-- R375, which the spec marks as its own inference: in SECTOR_ERASE_SUSPEND reads return array data and stay, every
plain store but 0x30 changes nothing, and 0x30 followed by a read gets out. (A reset gets out too:
FlashResetCompletes.) -/
def Obligations.SuspendIsSticky : Prop :=
  ∀ (s : State) (f : FlashChip) (a : Offset) (b : Byte) (cyc : Cycle), s.ctrl.flash? = some f →
    a.toNat < f.geometry.size → f.state = .sectorEraseSuspend →
    exec (.fRead a cyc) s =
      .next (s.withChip { f with lastRead := f.byteAt a.toNat } (some (f.byteAt a.toNat))) ∧
    (b ≠ 0x30 → exec (.fStore a b) s = .next { s with dataOut := none }) ∧
    ∃ t, exec (.fStore a 0x30) s = .next t ∧
      exec (.fRead a cyc) t =
        .next (s.withChip { f with state := .read, lastRead := f.byteAt a.toNat } (some (f.byteAt a.toNat)))

/-- R64, R105, R166: what a program data cycle did is seen by the very next read: the byte programmed where it
succeeded, the status byte with DQ5 set and DQ7 inverted where it failed. -/
def Obligations.ProgramIsSeenByNextRead : Prop :=
  ∀ (s : State) (f : FlashChip) (a : Offset) (b : Byte) (cyc : Cycle), s.Inv → s.ctrl.flash? = some f →
    a.toNat < f.geometry.size → f.state = .byteProgram →
    ∃ t u v, exec (.programData a b) s = .next t ∧ exec (.fRead a cyc) t = .next u ∧ u.dataOut = some v ∧
      (b &&& ~~~ f.byteAt a.toNat = 0 → v = b) ∧
      (b &&& ~~~ f.byteAt a.toNat ≠ 0 → v.getLsbD 5 = true ∧ v.getLsbD 7 = !b.getLsbD 7)

/-! ## The controller contract -/

/-- R56, R57, R340: which window an address lies in, by its range, and that the variant claims it; a controller access
completes exactly at the addresses of the variant's windows and is refused elsewhere; a reset always completes. -/
def Obligations.AccessCompletesInWindows : Prop :=
  ∀ (s : State) (addr : Addr) (busLast b : Byte) (cyc : Cycle) (rmw : Bool),
    let n := addr.toNat
    let inBlocks := (0x0400 ≤ n ∧ n ≤ 0x0FFF) ∨ (0x2000 ≤ n ∧ n ≤ 0x7FFF) ∨ (0xA000 ≤ n ∧ n ≤ 0xBFFF)
    let claimed := match s.ctrl with
      | .ultiMem _ => inBlocks ∨ (0x9800 ≤ n ∧ n ≤ 0x9FFF)
      | .finalExpansion _ => inBlocks ∨ (0x9C00 ≤ n ∧ n ≤ 0x9FFF)
      | .megaCart _ => inBlocks ∨ (0x9800 ≤ n ∧ n ≤ 0x9FFF)
      | .vicFlash _ => (0x0400 ≤ n ∧ n ≤ 0x0FFF) ∨ (0x2000 ≤ n ∧ n ≤ 0x3FFF) ∨ (0xA000 ≤ n ∧ n ≤ 0xBFFF) ∨
          (0x9800 ≤ n ∧ n ≤ 0x9BFF)
    let range := fun w : Window => match w with
      | .ram123 => 0x0400 ≤ n ∧ n ≤ 0x0FFF
      | .blk1 => 0x2000 ≤ n ∧ n ≤ 0x3FFF
      | .blk2 => 0x4000 ≤ n ∧ n ≤ 0x5FFF
      | .blk3 => 0x6000 ≤ n ∧ n ≤ 0x7FFF
      | .blk5 => 0xA000 ≤ n ∧ n ≤ 0xBFFF
      | .io2 => 0x9800 ≤ n ∧ n ≤ 0x9BFF
      | .io3 => 0x9C00 ≤ n ∧ n ≤ 0x9FFF
    (∀ w, s.ctrl.window? addr = some w ↔ claimed ∧ range w) ∧
    ∀ i ∈ [Instr.cRead addr busLast cyc, .cWrite addr b rmw, .cConfigRead addr busLast cyc,
        .cConfigWrite addr b rmw],
      (claimed → ∃ t, exec i s = .next t) ∧ (¬ claimed → exec i s = .refused .outsideWindows) ∧
      ∀ kind, ∃ t, exec (.cReset kind) s = .next t

/-- R184, R186, R192, R246, R288: the hook of a load clears the Final Expansion's lock bit in BLK5 and does nothing
else; the addresses at which a register answers a load; and at every other address the load returns what `resolve` says,
after the hook: open bus for a disabled window, else the byte of the flash, the ROM or the buffer. -/
def Obligations.ReadThroughWindow : Prop :=
  ∀ (s : State) (addr : Addr) (w : Window) (busLast : Byte) (cyc : Cycle), s.ctrl.window? addr = some w →
    s.ctrl.readHook w = (match s.ctrl with
      | .finalExpansion e => if w = .blk5 then .finalExpansion { e with lockBit := false } else s.ctrl
      | .ultiMem _ => s.ctrl
      | .megaCart _ => s.ctrl
      | .vicFlash _ => s.ctrl) ∧
    ((s.ctrl.readHook w).configRead? addr busLast = none ↔ match s.ctrl with
      | .ultiMem u => ¬ ((u.regs.get 0).getLsbD 7 = false ∧ 0x9FF0 ≤ addr.toNat ∧ addr.toNat ≤ 0x9FFF)
      | .finalExpansion _ => ¬ (0x9C00 ≤ addr.toNat ∧ addr.toNat ≤ 0x9FFF ∧ 2 ≤ addr.toNat % 4)
      | .megaCart _ => True
      | .vicFlash _ => ¬ (0x9800 ≤ addr.toNat ∧ addr.toNat ≤ 0x9BFF)) ∧
    ((s.ctrl.readHook w).configRead? addr busLast = none →
      match (s.ctrl.readHook w).resolve w addr .load with
      | .disabled => exec (.cRead addr busLast cyc) s = .next (s.answer (some busLast) (s.ctrl.readHook w))
      | .ram buf o => exec (.cRead addr busLast cyc) s =
          .next (s.answer (some ((s.ctrl.readHook w).bufferByte buf o)) (s.ctrl.readHook w))
      | .ramReadOnly buf o => exec (.cRead addr busLast cyc) s =
          .next (s.answer (some ((s.ctrl.readHook w).bufferByte buf o)) (s.ctrl.readHook w))
      | .rom o => ∃ m, s.ctrl = .megaCart m ∧
          exec (.cRead addr busLast cyc) s = .next (s.answer (some (m.rom.byteAt o)) s.ctrl)
      | .flash o => ∃ f, s.ctrl.flash? = some f ∧ exec (.cRead addr busLast cyc) s =
          .next (s.answer (some (f.read o cyc).1) ((s.ctrl.readHook w).withFlash (f.read o cyc).2)))

/-- R185, R187, R192, R246, R288: the hook of a store clears the Final Expansion's lock bit in BLK5, does a MegaCart
control write in IO3 (MegaCartControlRows) and does nothing else; the addresses at which a register answers a store; and
at every other address the store changes exactly what `resolve` says, after the hook: nothing for a disabled, read-only
or ROM window, one byte of the buffer, or the flash chip unless it is write-protected. -/
def Obligations.WriteThroughWindow : Prop :=
  ∀ (s : State) (addr : Addr) (w : Window) (b : Byte) (rmw : Bool), s.Inv → s.ctrl.window? addr = some w →
    (match s.ctrl with
      | .finalExpansion e => s.ctrl.writeHook w addr b =
          if w = .blk5 then .finalExpansion { e with lockBit := false } else s.ctrl
      | .ultiMem _ => s.ctrl.writeHook w addr b = s.ctrl
      | .megaCart _ => w ≠ .io3 → s.ctrl.writeHook w addr b = s.ctrl
      | .vicFlash _ => s.ctrl.writeHook w addr b = s.ctrl) ∧
    ((s.ctrl.writeHook w addr b).configWrite? addr b = none ↔ match s.ctrl with
      | .ultiMem u => ¬ ((u.regs.get 0).getLsbD 7 = false ∧ 0x9FF0 ≤ addr.toNat ∧ addr.toNat ≤ 0x9FFF)
      | .finalExpansion _ => ¬ (0x9C00 ≤ addr.toNat ∧ addr.toNat ≤ 0x9FFF ∧ 2 ≤ addr.toNat % 4)
      | .megaCart _ => ¬ (0x9C00 ≤ addr.toNat ∧ addr.toNat ≤ 0x9FFF)
      | .vicFlash _ => ¬ (0x9800 ≤ addr.toNat ∧ addr.toNat ≤ 0x9BFF)) ∧
    ((s.ctrl.writeHook w addr b).configWrite? addr b = none →
      match (s.ctrl.writeHook w addr b).resolve w addr .store with
      | .disabled => exec (.cWrite addr b rmw) s = .next (s.answer none (s.ctrl.writeHook w addr b))
      | .ramReadOnly _ _ => exec (.cWrite addr b rmw) s = .next (s.answer none (s.ctrl.writeHook w addr b))
      | .rom _ => exec (.cWrite addr b rmw) s = .next (s.answer none (s.ctrl.writeHook w addr b))
      | .ram buf o => ∃ r : Buffer, exec (.cWrite addr b rmw) s =
          .next (s.answer none ((s.ctrl.writeHook w addr b).withBuffer buf r)) ∧ r.byteAt o = b ∧
          (∀ o', o' ≠ o → r.byteAt o' = s.ctrl.bufferByte buf o') ∧ r.size = s.ctrl.bufferSize buf
      | .flash o => ∃ f, s.ctrl.flash? = some f ∧ exec (.cWrite addr b rmw) s =
          .next (s.answer none (if s.ctrl.writeProtected then s.ctrl
            else (s.ctrl.writeHook w addr b).withFlash (f.store o b rmw))))

/-- R64: a byte stored to RAM or NVRAM is what the very next read returns, through any window that resolves to the
same offset. -/
def Obligations.StoredByteIsReadBack : Prop :=
  ∀ (s t : State) (addr addr' : Addr) (w w' : Window) (b busLast : Byte) (rmw : Bool) (cyc : Cycle)
    (buf : BufferName) (o : Nat), s.Inv → s.ctrl.window? addr = some w →
    (s.ctrl.writeHook w addr b).configWrite? addr b = none →
    (s.ctrl.writeHook w addr b).resolve w addr .store = .ram buf o → exec (.cWrite addr b rmw) s = .next t →
    t.ctrl.window? addr' = some w' → (t.ctrl.readHook w').configRead? addr' busLast = none →
    ((t.ctrl.readHook w').resolve w' addr' .load = .ram buf o ∨
      (t.ctrl.readHook w').resolve w' addr' .load = .ramReadOnly buf o) →
    ∃ u, exec (.cRead addr' busLast cyc) t = .next u ∧ u.dataOut = some b

/-- R189: C.config_read at a register address: the register value where the registers answer, open bus where they are
locked; nothing changes. UltiMem 0x9FF0 to 0x9FFF while visible, Final Expansion IO3 with low address bits 2 and 3,
VIC Flash Plugin IO2. -/
def Obligations.ConfigReadAnswers : Prop :=
  ∀ (s : State) (addr : Addr) (busLast : Byte) (cyc : Cycle),
    (∀ u, s.ctrl = .ultiMem u → u.locked = false → 0x9FF0 ≤ addr.toNat → addr.toNat ≤ 0x9FFF →
      ∀ i : Fin 16, i.val = addr.toNat % 16 →
      exec (.cConfigRead addr busLast cyc) s =
        .next { s with dataOut := some (u.regs.get i &&& u.params.rmask.get i) }) ∧
    (∀ e, s.ctrl = .finalExpansion e → 0x9C00 ≤ addr.toNat → addr.toNat ≤ 0x9FFF → 2 ≤ addr.toNat % 4 →
      exec (.cConfigRead addr busLast cyc) s =
        .next (s.answer (some (if e.locked then busLast else if addr.toNat % 4 = 2 then e.regA else e.regB))
          s.ctrl)) ∧
    ∀ v, s.ctrl = .vicFlash v → 0x9800 ≤ addr.toNat → addr.toNat ≤ 0x9BFF →
      exec (.cConfigRead addr busLast cyc) s =
        .next (s.answer (some (if v.locked then busLast else if addr.toNat % 2 = 0 then v.bankReg else v.cfgReg))
          s.ctrl)

/-- R189: C.config_write at a register address: the register takes the byte where the registers answer, and nothing
changes where they are locked. -/
def Obligations.ConfigWriteTakes : Prop :=
  ∀ (s : State) (addr : Addr) (b : Byte) (rmw : Bool),
    (∀ u, s.ctrl = .ultiMem u → u.locked = false → 0x9FF0 ≤ addr.toNat → addr.toNat ≤ 0x9FFF →
      ∃ regs, exec (.cConfigWrite addr b rmw) s = .next (s.answer none (.ultiMem { u with regs := regs })) ∧
        ∀ j : Fin 16, regs.get j =
          if j.val = addr.toNat % 16 then b &&& u.params.wmask.get j else u.regs.get j) ∧
    (∀ e, s.ctrl = .finalExpansion e → 0x9C00 ≤ addr.toNat → addr.toNat ≤ 0x9FFF → 2 ≤ addr.toNat % 4 →
      exec (.cConfigWrite addr b rmw) s = .next (s.answer none (.finalExpansion
        (if e.locked then e else if addr.toNat % 4 = 2 then { e with regA := b } else { e with regB := b })))) ∧
    ∀ v, s.ctrl = .vicFlash v → 0x9800 ≤ addr.toNat → addr.toNat ≤ 0x9BFF →
      exec (.cConfigWrite addr b rmw) s = .next (s.answer none (.vicFlash
        (if v.locked then v
        else if addr.toNat % 2 = 0 then { v with bankReg := b, cfgEn := !v.cfgReg.getLsbD 7 }
        else { v with cfgReg := b, cfgEn := !b.getLsbD 7 })))

/-- R180: the two configuration operations are what C.read and C.write do, in every state at every address (log 11).
-/
def Obligations.ConfigAccessIsBusAccess : Prop :=
  ∀ (s : State) (addr : Addr) (busLast b : Byte) (cyc : Cycle) (rmw : Bool),
    exec (.cConfigRead addr busLast cyc) s = exec (.cRead addr busLast cyc) s ∧
    exec (.cConfigWrite addr b rmw) s = exec (.cWrite addr b rmw) s

/-- R211, R244, R284, R313: in every state, each register row is the bus access at the register's address (log 10). -/
def Obligations.RegisterRowsAreBusAccesses : Prop :=
  ∀ s : State,
    (∀ p ∈ umRows, (∀ busLast cyc, exec (p.2 (.load busLast cyc)) s =
        exec (.cRead (BitVec.ofNat 16 (0x9FF0 + p.1.val)) busLast cyc) s) ∧
      ∀ b rmw, exec (p.2 (.store b rmw)) s = exec (.cWrite (BitVec.ofNat 16 (0x9FF0 + p.1.val)) b rmw) s) ∧
    ∀ (addr : Addr) (busLast b : Byte) (cyc : Cycle) (rmw : Bool),
      (∀ i ∈ [Instr.feRegA addr (.load busLast cyc), .feRegB addr (.load busLast cyc),
          .vfpBankReg addr (.load busLast cyc), .vfpCfgReg addr (.load busLast cyc)],
        exec i s = exec (.cRead addr busLast cyc) s) ∧
      ∀ i ∈ [Instr.feRegA addr (.store b rmw), .feRegB addr (.store b rmw), .vfpBankReg addr (.store b rmw),
          .vfpCfgReg addr (.store b rmw), .mcBankLow addr b rmw, .mcBankHigh addr b rmw, .mcControl addr b rmw],
        exec i s = exec (.cWrite addr b rmw) s

/-- R63, R181: every offset `resolve` gives lies inside the buffer it names, and flash is given only where there is a
chip, ROM only on MegaCart. -/
def Obligations.ResolutionInRange : Prop :=
  ∀ (c : Controller) (w : Window) (addr : Addr) (dir : Direction),
    match c.resolve w addr dir with
    | .disabled => True
    | .flash o => ∃ f, c.flash? = some f ∧ o < f.geometry.size
    | .rom o => ∃ m, c = .megaCart m ∧ o < m.rom.size
    | .ram buf o => o < c.bufferSize buf
    | .ramReadOnly buf o => o < c.bufferSize buf

/-! ## UltiMem -/

/-- R215: each of the sixteen register rows while the registers are visible: a load returns the stored byte under
UM_RMASK and changes nothing, a store puts the byte under UM_WMASK into that register and no other. -/
def Obligations.UltiMemRegisterRows : Prop :=
  ∀ (s : State) (u : UltiMem), s.ctrl = .ultiMem u → (u.regs.get 0).getLsbD 7 = false → ∀ p ∈ umRows,
    (∀ busLast cyc, exec (p.2 (.load busLast cyc)) s =
      .next { s with dataOut := some (u.regs.get p.1 &&& u.params.rmask.get p.1) }) ∧
    ∀ b rmw, ∃ regs, exec (p.2 (.store b rmw)) s = .next (s.answer none (.ultiMem { u with regs := regs })) ∧
      ∀ j : Fin 16, regs.get j = if j = p.1 then b &&& u.params.wmask.get p.1 else u.regs.get j

/-- R61, R212, R213, R217, R218, R219: the window's 2-bit field chooses the backing, and the offset is the low 13
address bits plus bank times 8 KiB plus the base, XORed with the line inversion, wrapped to the buffer. The inversion
is 0 by default, and otherwise one of the four values R219 allows, a free function of the registers (log 7). -/
def Obligations.UltiMemResolution : Prop :=
  ∀ (u : UltiMem) (w : Window) (addr : Addr) (field bank inv : Nat),
    field = (match w with
      | .ram123 => (u.regs.get 1).toNat % 4
      | .io2 => (u.regs.get 1).toNat / 4 % 4
      | .io3 => (u.regs.get 1).toNat / 16 % 4
      | .blk1 => (u.regs.get 2).toNat % 4
      | .blk2 => (u.regs.get 2).toNat / 4 % 4
      | .blk3 => (u.regs.get 2).toNat / 16 % 4
      | .blk5 => (u.regs.get 2).toNat / 64) →
    bank = (match w with
      | .ram123 => 256 * (u.regs.get 5).toNat + (u.regs.get 4).toNat
      | .io2 => 256 * (u.regs.get 7).toNat + (u.regs.get 6).toNat
      | .io3 => 256 * (u.regs.get 7).toNat + (u.regs.get 6).toNat
      | .blk1 => 256 * (u.regs.get 9).toNat + (u.regs.get 8).toNat
      | .blk2 => 256 * (u.regs.get 11).toNat + (u.regs.get 10).toNat
      | .blk3 => 256 * (u.regs.get 13).toNat + (u.regs.get 12).toNat
      | .blk5 => 256 * (u.regs.get 15).toNat + (u.regs.get 14).toNat) →
    inv = (match u.params.inversion with
      | .none => 0
      | .other k => lineInversion (Config.umInversion k u.regs)) →
    let offset := fun len => ((addr.toNat % 0x2000 + bank * 0x2000 + u.params.base.ofWindow w) ^^^ inv) % len
    inv ∈ [0x0000, 0x2000, 0x4000, 0x6000] ∧
    (Controller.ultiMem u).resolve w addr .load = (Controller.ultiMem u).resolve w addr .store ∧
    (Controller.ultiMem u).resolve w addr .load =
      (if field = 0 then .disabled
      else if field = 1 then .flash (offset u.flash.geometry.size)
      else if field = 2 then .ramReadOnly .ram (offset u.ram.size)
      else .ram .ram (offset u.ram.size))

/-- R216: once bit 7 of register 0 is set, the sixteen register addresses are ordinary IO3 addresses: a read returns
what IO3 resolves to, and a write changes no register. -/
def Obligations.UltiMemHiddenRegisters : Prop :=
  ∀ (s : State) (u : UltiMem) (addr : Addr), s.ctrl = .ultiMem u → (u.regs.get 0).getLsbD 7 = true →
    0x9FF0 ≤ addr.toNat → addr.toNat ≤ 0x9FFF →
    (∀ busLast cyc, exec (.cRead addr busLast cyc) s =
      .next (s.answer (some (s.ctrl.readResolved (s.ctrl.resolve .io3 addr .load) busLast cyc).1)
        (s.ctrl.readResolved (s.ctrl.resolve .io3 addr .load) busLast cyc).2)) ∧
    ∀ b rmw, ∃ u', exec (.cWrite addr b rmw) s = .next (s.answer none (.ultiMem u')) ∧ u'.regs = u.regs ∧
      Controller.ultiMem u' = s.ctrl.writeResolved (s.ctrl.resolve .io3 addr .store) b rmw

/-! ## Final Expansion -/

/-- R244, R245: the two register rows at their addresses in IO3: all eight bits stored and read back while the
registers answer, open bus and drop while they are locked. The rest of IO3, where no register answers, is open bus and
drop always. -/
def Obligations.FinalExpansionRegisterRows : Prop :=
  ∀ (s : State) (e : FinalExpansion) (addr : Addr) (busLast b : Byte) (cyc : Cycle) (rmw : Bool),
    s.ctrl = .finalExpansion e → 0x9C00 ≤ addr.toNat → addr.toNat ≤ 0x9FFF →
    let locked := (e.regA.toNat / 32 = 0 ∧ e.lockBit = true) ∨ e.regB.getLsbD 7 = true
    (addr.toNat % 4 = 2 →
      (locked → exec (.feRegA addr (.load busLast cyc)) s = .next { s with dataOut := some busLast } ∧
        exec (.feRegA addr (.store b rmw)) s = .next { s with dataOut := none }) ∧
      (¬ locked → exec (.feRegA addr (.load busLast cyc)) s = .next { s with dataOut := some e.regA } ∧
        exec (.feRegA addr (.store b rmw)) s =
          .next (s.answer none (.finalExpansion { e with regA := b })))) ∧
    (addr.toNat % 4 = 3 →
      (locked → exec (.feRegB addr (.load busLast cyc)) s = .next { s with dataOut := some busLast } ∧
        exec (.feRegB addr (.store b rmw)) s = .next { s with dataOut := none }) ∧
      (¬ locked → exec (.feRegB addr (.load busLast cyc)) s = .next { s with dataOut := some e.regB } ∧
        exec (.feRegB addr (.store b rmw)) s =
          .next (s.answer none (.finalExpansion { e with regB := b })))) ∧
    (addr.toNat % 4 < 2 → exec (.cRead addr busLast cyc) s = .next { s with dataOut := some busLast } ∧
      exec (.cWrite addr b rmw) s = .next { s with dataOut := none })

/-- R246: any access in BLK5, a read or a write, completes and clears the lock bit and no register, whatever BLK5
resolves to. -/
def Obligations.FinalExpansionLockBitHook : Prop :=
  ∀ (s : State) (e : FinalExpansion) (addr : Addr) (busLast b : Byte) (cyc : Cycle) (rmw : Bool),
    s.ctrl = .finalExpansion e → 0xA000 ≤ addr.toNat → addr.toNat ≤ 0xBFFF →
    (∃ e' v, exec (.cRead addr busLast cyc) s = .next (s.answer (some v) (.finalExpansion e')) ∧
      e'.lockBit = false ∧ e'.regA = e.regA ∧ e'.regB = e.regB ∧ e'.ram = e.ram) ∧
    ∃ e', exec (.cWrite addr b rmw) s = .next (s.answer none (.finalExpansion e')) ∧
      e'.lockBit = false ∧ e'.regA = e.regA ∧ e'.regB = e.regB

/-- R253: the source's scenario from mode Start, locked: a write of 0xAA to 0x9C02 is dropped; a read of 0xA000
returns flash byte 0x6000 and clears the lock bit; the write then sets register A. -/
def Obligations.FinalExpansionScenario : Prop :=
  ∀ (s : State) (e : FinalExpansion) (busLast : Byte) (cyc : Cycle), s.Inv → s.ctrl = .finalExpansion e →
    e.regA = 0x00 → e.regB = 0x00 → e.lockBit = true → e.flash.state = .read →
    exec (.cWrite 0x9C02 0xAA false) s = .next { s with dataOut := none } ∧
    ∃ t, exec (.cRead 0xA000 busLast cyc) s = .next t ∧
      t = s.answer (some (e.flash.byteAt 0x6000)) (.finalExpansion
        { e with lockBit := false, flash := { e.flash with lastRead := e.flash.byteAt 0x6000 } }) ∧
      ∃ t', exec (.cWrite 0x9C02 0xAA false) t = .next t' ∧ t'.ctrl = .finalExpansion
        { e with regA := 0xAA, lockBit := false, flash := { e.flash with lastRead := e.flash.byteAt 0x6000 } }

/-- R241, R242, R243, R247, R248, R249 with the default mode table of R250, which the spec marks as a reconstruction
from general knowledge (log 18): what every window of a Final Expansion resolves to, in each mode and direction; IO3
resolves to nothing (R244). Last clause, for every mode table: in mode Start the low five bits of register A are
ignored (R242, I32). -/
def Obligations.FinalExpansionResolution : Prop :=
  (∀ (e : FinalExpansion) (w : Window) (addr : Addr) (bit base mode n : Nat), e.table = .standard →
    (w, bit, base) ∈ [(Window.ram123, 0, 0x0000), (.blk1, 1, 0x0000), (.blk2, 2, 0x2000), (.blk3, 3, 0x4000),
      (.blk5, 4, 0x6000)] → mode = e.regA.toNat / 32 → n = e.regA.toNat % 32 →
    let flag := e.regA.getLsbD bit = true
    let off := fun k => (addr.toNat % 0x2000 + k * 0x8000 + base) ^^^ (e.regB.toNat / 32 % 4 * 0x2000)
    let flash := fun k => Resolution.flash (off k % e.flash.geometry.size)
    let ram := fun k => Resolution.ram .ram (off k % e.ram.size)
    (Controller.finalExpansion e).resolve w addr .load =
      (if e.regB.getLsbD bit = true ∨ mode = 7 then .disabled
      else if w = .ram123 then ram 0
      else if mode = 0 then (if w = .blk5 then flash 0 else .disabled)
      else if mode = 1 ∨ mode = 2 then flash n
      else if mode = 3 then (if flag then flash 0 else ram 1)
      else if mode = 4 then ram 1
      else if mode = 5 then ram n
      else if flag then ram 2 else ram 1) ∧
    (Controller.finalExpansion e).resolve w addr .store =
      (if e.regB.getLsbD bit = true ∨ mode = 7 then .disabled
      else if w = .ram123 then ram 0
      else if mode = 0 then ram 1
      else if mode = 1 then flash n
      else if mode = 2 then ram (2 * (n / 2) + 1)
      else if mode = 3 then (if flag then ram 2 else ram 1)
      else if mode = 4 then (if flag then .ramReadOnly .ram (off 1 % e.ram.size) else ram 1)
      else if mode = 5 then ram n
      else ram 1) ∧
    ∀ dir, (Controller.finalExpansion e).resolve .io3 addr dir = .disabled) ∧
  ∀ (e : FinalExpansion) (w : Window) (addr : Addr) (dir : Direction) (regA : Byte), e.regA.toNat / 32 = 0 →
    regA.toNat / 32 = 0 → (Controller.finalExpansion { e with regA := regA }).resolve w addr dir =
      (Controller.finalExpansion e).resolve w addr dir

/-- R251 with R247, R248 and R249, for every mode table: in mode SuperROM a load of BLK1, BLK2, BLK3 or BLK5 comes
from flash bank n, and a store goes to RAM bank n with bit 0 forced to 1. That the store goes to RAM is the spec's own
decision, D39, marked general knowledge (log 18). -/
def Obligations.SuperRomStoreBank : Prop :=
  ∀ (e : FinalExpansion) (w : Window) (b : FeBlock) (addr : Addr) (n : Nat), feBlockOf w = some b → b ≠ .blk0 →
    e.regA.toNat / 32 = 2 → n = e.regA.toNat % 32 → e.regB.getLsbD (feBlockBit b) = false →
    (Controller.finalExpansion e).resolve w addr .load = .flash (((addr.toNat % 0x2000 + n * 0x8000 +
      feBlockBase b) ^^^ lineInversion ⟨e.regB.getLsbD 5, e.regB.getLsbD 6⟩) % e.flash.geometry.size) ∧
    (Controller.finalExpansion e).resolve w addr .store = .ram .ram (((addr.toNat % 0x2000 +
      (2 * (n / 2) + 1) * 0x8000 + feBlockBase b) ^^^ lineInversion ⟨e.regB.getLsbD 5, e.regB.getLsbD 6⟩)
        % e.ram.size)

/-! ## MegaCart -/

/-- R284 and I39, whose addresses the spec marks as general knowledge (log 18), rows by log 10: every IO3 write puts
the byte in NVRAM at the low 13 address bits if NVRAM was enabled before the write; the three control rows then write
the registers they name, and a write at the fourth decode writes nothing more. -/
def Obligations.MegaCartControlRows : Prop :=
  ∀ (s : State) (m : MegaCart) (addr : Addr) (b : Byte) (rmw : Bool), s.Inv → s.ctrl = .megaCart m →
    0x9C00 ≤ addr.toNat → addr.toNat ≤ 0x9FFF →
    ∃ nv : Buffer, nv.sizeLog = m.nvram.sizeLog ∧ (m.nvramEnable = false → nv = m.nvram) ∧
      (m.nvramEnable = true → ∀ o, nv.byteAt o =
        if o = addr.toNat % 0x2000 % m.nvram.size then b else m.nvram.byteAt o) ∧
      (addr.toNat / 0x80 % 4 = 2 → exec (.mcBankLow addr b rmw) s =
        .next (s.answer none (.megaCart { m with nvram := nv, bankLow := b }))) ∧
      (addr.toNat / 0x80 % 4 = 1 → exec (.mcBankHigh addr b rmw) s =
        .next (s.answer none (.megaCart { m with nvram := nv, bankHigh := b }))) ∧
      (addr.toNat / 0x80 % 4 = 3 → ∀ i ∈ [Instr.mcControl addr b rmw, .mcBankLow addr b rmw,
          .mcBankHigh addr b rmw], exec i s = .next (s.answer none (.megaCart
        { m with nvram := nv, bankLow := b, bankHigh := b, nvramEnable := !b.getLsbD 0 }))) ∧
      (addr.toNat / 0x80 % 4 = 0 → exec (.cWrite addr b rmw) s =
        .next (s.answer none (.megaCart { m with nvram := nv })))

/-- R281, R285 at the sizes of R280, which the spec marks as general knowledge (log 18): what every window of a
MegaCart resolves to, in both directions. -/
def Obligations.MegaCartResolution : Prop :=
  ∀ (m : MegaCart) (w : Window) (addr : Addr) (dir : Direction) (bl bh lo : Nat), m.rom.size = 0x200000 →
    m.ram.size = 0x8000 → m.nvram.size = 0x2000 →
    bl = (if m.outputEnable then m.bankLow.toNat else 0x7F) →
    bh = (if m.outputEnable then m.bankHigh.toNat else 0x7F) → lo = addr.toNat % 0x2000 →
    let ramAt := fun o => if bh / 0x40 % 2 = 1 then Resolution.ram .ram o else .ramReadOnly .ram o
    let lowBlock := fun base => if bl < 0x80 then Resolution.rom (bl * 0x2000 + lo)
      else if bh ≥ 0x80 then ramAt (base + lo) else .disabled
    (Controller.megaCart m).resolve w addr dir = (match w with
      | .blk1 => lowBlock 0x0000
      | .blk2 => lowBlock 0x2000
      | .blk3 => lowBlock 0x4000
      | .blk5 => if bh < 0x80 then .rom (0x100000 + bh * 0x2000 + lo)
          else if bl < 0x80 then .rom (bl * 0x2000 + lo) else ramAt (0x6000 + lo)
      | .ram123 => if m.nvramEnable then .ram .nvram lo else .disabled
      | .io2 => if m.nvramEnable then .ram .nvram lo else .disabled
      | .io3 => if m.nvramEnable then .ram .nvram lo else .disabled)

/-! ## VIC Flash Plugin -/

/-- R313 (addresses the spec marks as general knowledge, log 18), R314, R315: the two register rows in IO2: while the
registers answer, all eight bits are read and stored and `cfg_en` is latched from bit 7 of the configuration register;
while they are locked, open bus and drop. -/
def Obligations.VicFlashRegisterRows : Prop :=
  ∀ (s : State) (v : VicFlash) (addr : Addr) (busLast b : Byte) (cyc : Cycle) (rmw : Bool),
    s.ctrl = .vicFlash v → 0x9800 ≤ addr.toNat → addr.toNat ≤ 0x9BFF →
    (addr.toNat % 2 = 0 →
      (v.cfgEn = false → exec (.vfpBankReg addr (.load busLast cyc)) s = .next { s with dataOut := some busLast } ∧
        exec (.vfpBankReg addr (.store b rmw)) s = .next { s with dataOut := none }) ∧
      (v.cfgEn = true → exec (.vfpBankReg addr (.load busLast cyc)) s = .next { s with dataOut := some v.bankReg } ∧
        exec (.vfpBankReg addr (.store b rmw)) s = .next (s.answer none (.vicFlash
          { v with bankReg := b, cfgEn := !v.cfgReg.getLsbD 7 })))) ∧
    (addr.toNat % 2 = 1 →
      (v.cfgEn = false → exec (.vfpCfgReg addr (.load busLast cyc)) s = .next { s with dataOut := some busLast } ∧
        exec (.vfpCfgReg addr (.store b rmw)) s = .next { s with dataOut := none }) ∧
      (v.cfgEn = true → exec (.vfpCfgReg addr (.load busLast cyc)) s = .next { s with dataOut := some v.cfgReg } ∧
        exec (.vfpCfgReg addr (.store b rmw)) s = .next (s.answer none (.vicFlash
          { v with cfgReg := b, cfgEn := !b.getLsbD 7 }))))

/-- R312, R316, R317 at the sizes of R310: what RAM123, BLK1 and BLK5 of a VIC Flash Plugin resolve to, in both
directions. -/
def Obligations.VicFlashResolution : Prop :=
  ∀ (v : VicFlash) (addr : Addr) (dir : Direction) (lo sel : Nat), v.flash.geometry.size = 0x400000 →
    v.ram.size = 0x8000 → lo = addr.toNat % 0x2000 → sel = v.cfgReg.toNat / 8 % 4 →
    (Controller.vicFlash v).resolve .ram123 addr dir =
      (if sel = 1 ∨ sel = 2 then .ram .ram lo else .disabled) ∧
    (Controller.vicFlash v).resolve .blk1 addr dir = (if sel = 3 then .ram .ram (0x2000 + lo) else .disabled) ∧
    (Controller.vicFlash v).resolve .blk5 addr dir =
      (if v.cfgReg.toNat / 32 % 2 = 1 then .ram .ram (0x4000 + lo)
      else .flash (lo + v.bankReg.toNat * 0x2000 + v.cfgReg.toNat % 2 * 0x200000))

/-- R318, and R382, which the spec marks as its own inference: while bit 6 of the configuration register is set, no
write through any window changes the flash chip, and no operation addressed to a CPU address changes the array,
`dirty` or the last-programmed latch. Operations on the chip beneath the controller are outside this (log 20). -/
def Obligations.WriteProtectFreezesFlash : Prop :=
  ∀ (s : State) (v : VicFlash) (addr : Addr) (w : Window) (b : Byte) (rmw : Bool), s.ctrl = .vicFlash v →
    v.cfgReg.getLsbD 6 = true → s.ctrl.window? addr = some w →
    (∃ v', exec (.cWrite addr b rmw) s = .next (s.answer none (.vicFlash v')) ∧ v'.flash = v.flash) ∧
    ∀ (i : Instr) (t : State), i.target = .cpu addr → exec i s = .next t →
      ∃ v', t.ctrl = .vicFlash v' ∧ v'.flash.backing = v.flash.backing ∧ v'.flash.dirty = v.flash.dirty ∧
        v'.flash.lastProgrammed = v.flash.lastProgrammed

/-! ## Reset and rules over every operation -/

/-- R366 to R370, R365, R352, R354: what C.reset does on each variant; no buffer changes; of the flash the sequencer
state alone (R13, R15), but for POWER_ON, after which `dirty` and the last-read latch have the values of R16; that the
host has then written the chip back is the model's reading (log 8). Last clause: after POWER_ON the state is the attach
state over the same buffers (R354, R361), up to the last-programmed latch, which stays (R13, I7). -/
def Obligations.ControllerResets : Prop :=
  ∀ (s : State) (kind : ResetKind),
    let chip := fun f : FlashChip =>
      if kind = .powerOn then { f with state := .read, lastRead := 0x00, dirty := false } else { f with state := .read }
    (∀ u, s.ctrl = .ultiMem u → exec (.cReset kind) s = .next (s.answer none (.ultiMem
      { u with regs := u.params.resetRegs, flash := chip u.flash }))) ∧
    (∀ e, s.ctrl = .finalExpansion e → exec (.cReset kind) s = .next (s.answer none (.finalExpansion
      { e with regA := 0x00, regB := 0x00, lockBit := true, flash := chip e.flash }))) ∧
    (∀ m, s.ctrl = .megaCart m → exec (.cReset kind) s = .next (s.answer none (.megaCart
      (if kind = .software then { m with outputEnable := !m.outputEnable }
      else { m with outputEnable := false, bankLow := 0x00, bankHigh := 0x00, nvramEnable := true })))) ∧
    (∀ v, s.ctrl = .vicFlash v → exec (.cReset kind) s = .next (s.answer none (.vicFlash
      { v with bankReg := 0x00, cfgReg := 0x40, cfgEn := true, flash := chip v.flash }))) ∧
    let again := fun f : FlashChip =>
      { FlashChip.attach f.geometry f.backing with lastProgrammed := f.lastProgrammed }
    exec (.cReset .powerOn) s = .next (s.answer none (match s.ctrl with
      | .ultiMem u => attachUltiMem u.params u.ram (again u.flash)
      | .finalExpansion e => attachFinalExpansion e.table e.ram (again e.flash)
      | .megaCart m => attachMegaCart m.ram m.nvram m.rom
      | .vicFlash v => attachVicFlash v.ram (again v.flash)))

/-- R348, R246, R291, and R378, which the spec marks as its own inference: no operation but a controller reset undoes
the three register locks or moves `output_enable`: disabled UltiMem registers (`regs[0][7]`) keep their values, so do the
Final Expansion's with `reg_b[7]` set and the VIC Flash Plugin's with `cfg_en` clear. The Final Expansion's lock bit, which
software does undo, stays clear once clear, and stays set but for an access at a CPU address in BLK5. -/
def Obligations.LocksHeldUntilReset : Prop :=
  ∀ (i : Instr) (s t : State), (∀ kind, i ≠ .cReset kind) → exec i s = .next t →
    (∀ u, s.ctrl = .ultiMem u → (u.regs.get 0).getLsbD 7 = true →
      ∃ u', t.ctrl = .ultiMem u' ∧ u'.regs = u.regs) ∧
    (∀ e, s.ctrl = .finalExpansion e → ∃ e', t.ctrl = .finalExpansion e' ∧
      (e.regB.getLsbD 7 = true → e'.regA = e.regA ∧ e'.regB = e.regB) ∧
      (e.lockBit = false → e'.lockBit = false) ∧
      ((∀ addr, i.target = .cpu addr → ¬ (0xA000 ≤ addr.toNat ∧ addr.toNat ≤ 0xBFFF)) → e.lockBit = true →
        e'.lockBit = true)) ∧
    (∀ m, s.ctrl = .megaCart m → ∃ m', t.ctrl = .megaCart m' ∧ m'.outputEnable = m.outputEnable) ∧
    ∀ v, s.ctrl = .vicFlash v → v.cfgEn = false →
      ∃ v', t.ctrl = .vicFlash v' ∧ v'.cfgEn = false ∧ v'.bankReg = v.bankReg ∧ v'.cfgReg = v.cfgReg

/-- R4, R13, R14, R15, R384: for every operation but C.reset(POWER_ON), which begins a new life of the instance, dirty
once set stays set, and the array, `dirty` and the last-programmed latch change only where the operation delivers to the
chip a store that programs or erases; the last-read latch changes only to the byte a read returned. C.reset(POWER_ON)
leaves the array and the last-programmed latch and brings `dirty` and the last-read latch to the values of R16 (R354,
R365), the model's reading of the spec (log 8). A store is delivered through a window that resolves to flash (R4) or beneath the controller (log 20). -/
def Obligations.LatchWriters : Prop :=
  ∀ (i : Instr) (s t : State) (f : FlashChip), s.ctrl.flash? = some f → exec i s = .next t →
    ∃ g, t.ctrl.flash? = some g ∧ (f.dirty = true → i ≠ .cReset .powerOn → g.dirty = true) ∧
      (g.dirty = false → g.lastProgrammed = f.lastProgrammed ∧ g.backing = f.backing) ∧
      (i = .cReset .powerOn → g = { f with state := .read, lastRead := 0x00, dirty := false }) ∧
      (i ≠ .cReset .powerOn → g.lastRead = f.lastRead ∨ t.dataOut = some g.lastRead) ∧
      ((g.lastProgrammed = f.lastProgrammed ∧ g.backing = f.backing ∧ (i ≠ .cReset .powerOn → g.dirty = f.dirty)) ∨
        ∃ o b rmw, s.deliversStore i o b rmw ∧ f.mayAlter o rmw ∧ g = f.store o b rmw)

/-- R4, R24, 00_scope 5.1: whatever a step does, the variant, the geometry, the OPEN parameters, the buffer lengths
and MegaCart's ROM stay. "The only external mutation path into a buffer is through the controller's read/write" (R4): a
step that carries out what a host has issued, whatever bytes those are, leaves every buffer as it was or is exactly the
controller's write at a CPU address, and the caller stays the host; so does an operation of the host's by itself. -/
def Obligations.StepKeepsFixedParts : Prop :=
  (∀ s t : State, step s = .next t → s.ctrl.sameFixed t.ctrl) ∧
  (∀ s t : State, s.caller = .host → step s = .next t → t.caller = .host ∧ (s.ctrl.sameBuffers t.ctrl ∨
    ∃ i rest addr w b rmw, decode s.inbox = .ok (i, rest) ∧ i.target = .cpu addr ∧ i.stored? = some (b, rmw) ∧
      s.ctrl.window? addr = some w ∧ t.ctrl = s.ctrl.write w addr b rmw)) ∧
  ∀ (i : Instr) (s t : State), i.issuer = .host → exec i s = .next t → s.ctrl.sameBuffers t.ctrl ∨
    ∃ addr w b rmw, i.target = .cpu addr ∧ i.stored? = some (b, rmw) ∧ s.ctrl.window? addr = some w ∧
      t = s.answer none (s.ctrl.write w addr b rmw)

/-- R101, R109, R110, R57, and for a MegaCart, which has no chip (R280), the model's reading of log 12: when an
operation is refused and why, exactly: no chip, an offset not below its size, or a CPU address in no window of the
variant. -/
def Obligations.RefusalsHaveTheirReason : Prop :=
  (∀ (i : Instr) (s : State) (r : Refusal), exec i s = .refused r ↔
    match i.target with
    | .controller => False
    | .chip => r = .noFlashChip ∧ ∃ m, s.ctrl = .megaCart m
    | .offset a => (r = .noFlashChip ∧ ∃ m, s.ctrl = .megaCart m) ∨
        (r = .offsetOutOfRange ∧ ∃ f, s.ctrl.flash? = some f ∧ f.geometry.size ≤ a.toNat)
    | .cpu addr => r = .outsideWindows ∧ s.ctrl.window? addr = none) ∧
  (∀ (s : State) (m : MegaCart), s.ctrl = .megaCart m → exec .fReset s = .refused .noFlashChip) ∧
  ∀ (s : State) (a : Offset) (b : Byte) (cyc : Cycle),
    ∀ i ∈ [Instr.fRead a cyc, .fStore a b, .fStoreRmw a b, .fPeek a, .programData a b, .sectorErase a],
      (∀ m, s.ctrl = .megaCart m → exec i s = .refused .noFlashChip) ∧
      ∀ f, s.ctrl.flash? = some f → f.geometry.size ≤ a.toNat → exec i s = .refused .offsetOutOfRange
end

