-- ==== Sys2Proof/Laws/Memory.lean ====
section
/-! SUPPORT. The laws of memory: a read after a write or an erase, the canonical form and the bound kept by both. -/

namespace Sys2Proof.Machine

/-- An address below every listed one is not listed. -/
theorem Memory.byteAt_of_lt (m : Memory) (a : Nat) (h : ∀ c ∈ m, a < c.1) : m.byteAt a = Config.unlisted := by
  induction m with
  | nil => rfl
  | cons c m ih =>
    obtain ⟨k, v⟩ := c
    have hk : a < k := h (k, v) (by simp)
    have : k ≠ a := by omega
    simp only [Memory.byteAt, this, if_false]
    exact ih fun c hc => h c (by simp [hc])

/-- What one entry put in front reads as. -/
theorem Memory.byteAt_cell (m : Memory) (a o : Nat) (b : Byte) (h : ∀ c ∈ m, a < c.1) :
    (Memory.cell a b m).byteAt o = if o = a then b else m.byteAt o := by
  unfold Memory.cell
  by_cases hb : b = Config.unlisted
  · by_cases ho : o = a
    · subst ho; simp [hb, Memory.byteAt_of_lt m o h]
    · simp [hb, ho]
  · by_cases ho : o = a
    · subst ho; simp [hb, Memory.byteAt]
    · have : a ≠ o := fun e => ho e.symm
      simp [hb, ho, this, Memory.byteAt]

/-- A read after a write, in a memory whose addresses rise. -/
theorem Memory.byteAt_write (m : Memory) (a o : Nat) (b : Byte) (h : m.Pairwise fun c d => c.1 < d.1) :
    (m.write a b).byteAt o = if o = a then b else m.byteAt o := by
  induction m with
  | nil => exact Memory.byteAt_cell [] a o b (by simp)
  | cons c m ih =>
    obtain ⟨k, v⟩ := c
    obtain ⟨hk, hm⟩ := List.pairwise_cons.1 h
    unfold Memory.write
    split
    · rename_i hlt
      refine Memory.byteAt_cell _ a o b fun c hc => ?_
      rcases List.mem_cons.1 hc with rfl | hc
      · exact hlt
      · have := hk c hc; omega
    · split
      · rename_i _ he
        subst he
        rw [Memory.byteAt_cell m a o b hk]
        by_cases ho : o = a
        · simp [ho]
        · have : a ≠ o := fun e => ho e.symm
          simp [ho, this, Memory.byteAt]
      · rename_i _ hne
        simp only [Memory.byteAt, ih hm]
        by_cases ho : o = a
        · subst ho
          have : k ≠ o := fun e => hne e.symm
          simp [this]
        · simp [ho]

/-- A write leaves every other address, in any memory. -/
theorem Memory.byteAt_write_ne (m : Memory) (a o : Nat) (b : Byte) (ho : o ≠ a) :
    (m.write a b).byteAt o = m.byteAt o := by
  have hao : a ≠ o := fun e => ho e.symm
  have cell : ∀ m : Memory, (Memory.cell a b m).byteAt o = m.byteAt o := by
    intro m
    unfold Memory.cell
    split
    · rfl
    · simp [Memory.byteAt, hao]
  induction m with
  | nil => exact cell []
  | cons c m ih =>
    obtain ⟨k, v⟩ := c
    unfold Memory.write
    split
    · exact cell _
    · split
      · rename_i _ he
        subst he
        simp [cell, Memory.byteAt, hao]
      · simp only [Memory.byteAt, ih]

/-- A write adds no address but its own. -/
theorem Memory.mem_write (m : Memory) (a : Nat) (b : Byte) :
    ∀ c ∈ m.write a b, c ∈ m ∨ (c = (a, b) ∧ b ≠ Config.unlisted) := by
  have cell : ∀ m c, c ∈ Memory.cell a b m → c ∈ m ∨ (c = (a, b) ∧ b ≠ Config.unlisted) := by
    intro m c hc
    unfold Memory.cell at hc
    split at hc
    · exact .inl hc
    · rcases List.mem_cons.1 hc with rfl | hc
      · exact .inr ⟨rfl, ‹_›⟩
      · exact .inl hc
  induction m with
  | nil => exact cell []
  | cons d m ih =>
    obtain ⟨k, v⟩ := d
    intro c hc
    unfold Memory.write at hc
    split at hc
    · exact cell _ c hc
    · split at hc
      · exact (cell _ c hc).imp_left (List.mem_cons_of_mem _)
      · rcases List.mem_cons.1 hc with rfl | hc
        · exact .inl (by simp)
        · exact (ih c hc).imp_left (List.mem_cons_of_mem _)

/-- A write keeps the canonical form. -/
theorem Memory.wf_write (m : Memory) (a : Nat) (b : Byte) (h : m.wf) : (m.write a b).wf := by
  refine ⟨?_, fun c hc => ?_⟩
  · obtain ⟨h, -⟩ := h
    have cell : ∀ m : Memory, (m.Pairwise fun c d => c.1 < d.1) → (∀ c ∈ m, a < c.1) →
        (Memory.cell a b m).Pairwise fun c d => c.1 < d.1 := by
      intro m hm hlt
      unfold Memory.cell
      split
      · exact hm
      · exact List.pairwise_cons.2 ⟨hlt, hm⟩
    induction m with
    | nil => exact cell [] .nil (by simp)
    | cons d m ih =>
      obtain ⟨k, v⟩ := d
      obtain ⟨hk, hm⟩ := List.pairwise_cons.1 h
      unfold Memory.write
      split
      · rename_i hlt
        refine cell _ h fun c hc => ?_
        rcases List.mem_cons.1 hc with rfl | hc
        · exact hlt
        · have := hk c hc; omega
      · split
        · rename_i _ he
          subst he
          exact cell m hm hk
        · rename_i h1 h2
          refine List.pairwise_cons.2 ⟨fun c hc => ?_, ih hm⟩
          rcases Memory.mem_write m a b c hc with hc | ⟨rfl, -⟩
          · exact hk c hc
          · show k < a
            omega
  · rcases Memory.mem_write m a b c hc with hc | ⟨rfl, hb⟩
    · exact h.2 c hc
    · exact hb

/-- A write below a length keeps the bound. -/
theorem Memory.within_write (m : Memory) (a len : Nat) (b : Byte) (h : m.within len) (ha : a < len) :
    (m.write a b).within len := by
  intro c hc
  rcases Memory.mem_write m a b c hc with hc | ⟨rfl, -⟩
  · exact h c hc
  · exact ha

/-- A write of what is there already changes nothing in a canonical memory. -/
theorem Memory.write_byteAt (m : Memory) (a : Nat) (h : m.wf) : m.write a (m.byteAt a) = m := by
  obtain ⟨h, hv⟩ := h
  have cell : ∀ m : Memory, Memory.cell a Config.unlisted m = m := fun m => by simp [Memory.cell]
  induction m with
  | nil => exact cell []
  | cons c m ih =>
    obtain ⟨k, v⟩ := c
    obtain ⟨hk, hm⟩ := List.pairwise_cons.1 h
    unfold Memory.write
    split
    · rename_i hlt
      rw [Memory.byteAt_of_lt _ a, cell]
      intro c hc
      rcases List.mem_cons.1 hc with rfl | hc
      · exact hlt
      · have := hk c hc; omega
    · split
      · rename_i _ he
        subst he
        have : v ≠ Config.unlisted := hv (a, v) (by simp)
        simp [Memory.byteAt, Memory.cell, this]
      · rename_i _ hne
        have : k ≠ a := fun e => hne e.symm
        simp only [Memory.byteAt, this, if_false]
        rw [ih hm fun c hc => hv c (by simp [hc])]

/-- What an erased memory reads as. -/
theorem Memory.byteAt_erase (m : Memory) (lo len o : Nat) :
    (m.erase lo len).byteAt o = if lo ≤ o ∧ o < lo + len then Config.unlisted else m.byteAt o := by
  unfold Memory.erase
  induction m with
  | nil => simp [Memory.byteAt]
  | cons c m ih =>
    obtain ⟨k, v⟩ := c
    by_cases hin : lo ≤ k ∧ k < lo + len
    · rw [List.filter_cons_of_neg (by simp [hin]), ih]
      by_cases hk : k = o
      · subst hk; simp [hin]
      · simp [Memory.byteAt, hk]
    · rw [List.filter_cons_of_pos (by simp; omega)]
      by_cases hk : k = o
      · subst hk; simp [Memory.byteAt, hin]
      · simp only [Memory.byteAt, hk, if_false]
        exact ih

/-- An erase keeps the canonical form. -/
theorem Memory.wf_erase (m : Memory) (lo len : Nat) (h : m.wf) : (m.erase lo len).wf :=
  ⟨h.1.filter _, fun c hc => h.2 c (List.mem_filter.1 hc).1⟩

/-- An erase keeps the bound. -/
theorem Memory.within_erase (m : Memory) (lo len size : Nat) (h : m.within size) : (m.erase lo len).within size :=
  fun c hc => h c (List.mem_filter.1 hc).1

/-- The empty memory is canonical. -/
theorem Memory.wf_nil : Memory.wf [] := ⟨.nil, by simp⟩

/-- No buffer and no flash array lists anything after reset, so every memory of the reset state is canonical. -/
theorem State.reset_memories_wf (v : Variant) :
    (∀ buf, Memory.wf (match (Controller.powerOn v), buf with
      | .ultiMem u, _ => u.ram.cells
      | .finalExpansion e, _ => e.ram.cells
      | .megaCart m, BufferName.ram => m.ram.cells
      | .megaCart m, BufferName.nvram => m.nvram.cells
      | .vicFlash v, _ => v.ram.cells)) ∧
    ∀ f, (Controller.powerOn v).flash? = some f → f.backing.wf := by
  refine ⟨fun buf => ?_, fun f hf => ?_⟩
  · cases v <;> cases buf <;> exact Memory.wf_nil
  · cases v <;> first | cases hf; exact Memory.wf_nil | cases hf

/-- A buffer reads back what was written to it, and elsewhere what it held. -/
theorem Buffer.byteAt_write (r : Buffer) (a o : Nat) (b : Byte) (h : r.wf) :
    (r.write a b).byteAt o = if o = a then b else r.byteAt o := Memory.byteAt_write r.cells a o b h.1.1

/-- A write inside a buffer keeps it well-formed. -/
theorem Buffer.wf_write (r : Buffer) (a : Nat) (b : Byte) (h : r.wf) (ha : a < r.size) : (r.write a b).wf :=
  ⟨Memory.wf_write r.cells a b h.1, Memory.within_write r.cells a r.size b h.2 ha⟩

end Sys2Proof.Machine
end

