-- ==== Sys2Proof/Laws/State.lean ====
section
/-! SUPPORT. One lemma per field per update, true by definition. -/

namespace Sys2Proof.Machine

/-! ## FlashChip.goto -/

@[simp] theorem FlashChip.goto_geometry (f : FlashChip) (q : SeqState) : (f.goto q).geometry = f.geometry := rfl
@[simp] theorem FlashChip.goto_state (f : FlashChip) (q : SeqState) : (f.goto q).state = q := rfl
@[simp] theorem FlashChip.goto_backing (f : FlashChip) (q : SeqState) : (f.goto q).backing = f.backing := rfl
@[simp] theorem FlashChip.goto_lastProgrammed (f : FlashChip) (q : SeqState) :
    (f.goto q).lastProgrammed = f.lastProgrammed := rfl
@[simp] theorem FlashChip.goto_lastRead (f : FlashChip) (q : SeqState) : (f.goto q).lastRead = f.lastRead := rfl
@[simp] theorem FlashChip.goto_dirty (f : FlashChip) (q : SeqState) : (f.goto q).dirty = f.dirty := rfl

/-! ## FlashChip.leaveToRead -/

@[simp] theorem FlashChip.leaveToRead_geometry (f : FlashChip) : (f.leaveToRead).geometry = f.geometry := rfl
@[simp] theorem FlashChip.leaveToRead_state (f : FlashChip) : (f.leaveToRead).state = .read := rfl
@[simp] theorem FlashChip.leaveToRead_backing (f : FlashChip) : (f.leaveToRead).backing = f.backing := rfl
@[simp] theorem FlashChip.leaveToRead_lastProgrammed (f : FlashChip) :
    (f.leaveToRead).lastProgrammed = f.lastProgrammed := rfl
@[simp] theorem FlashChip.leaveToRead_lastRead (f : FlashChip) : (f.leaveToRead).lastRead = f.lastRead := rfl
@[simp] theorem FlashChip.leaveToRead_dirty (f : FlashChip) : (f.leaveToRead).dirty = f.dirty := rfl

/-! ## FlashChip.enterProgramError -/

@[simp] theorem FlashChip.enterProgramError_geometry (f : FlashChip) :
    (f.enterProgramError).geometry = f.geometry := rfl
@[simp] theorem FlashChip.enterProgramError_state (f : FlashChip) :
    (f.enterProgramError).state = .byteProgramError := rfl
@[simp] theorem FlashChip.enterProgramError_backing (f : FlashChip) : (f.enterProgramError).backing = f.backing := rfl
@[simp] theorem FlashChip.enterProgramError_lastProgrammed (f : FlashChip) :
    (f.enterProgramError).lastProgrammed = f.lastProgrammed := rfl
@[simp] theorem FlashChip.enterProgramError_lastRead (f : FlashChip) :
    (f.enterProgramError).lastRead = f.lastRead := rfl
@[simp] theorem FlashChip.enterProgramError_dirty (f : FlashChip) : (f.enterProgramError).dirty = f.dirty := rfl

/-! ## FlashChip.reset -/

@[simp] theorem FlashChip.reset_geometry (f : FlashChip) : (f.reset).geometry = f.geometry := rfl
@[simp] theorem FlashChip.reset_state (f : FlashChip) : (f.reset).state = .read := rfl
@[simp] theorem FlashChip.reset_backing (f : FlashChip) : (f.reset).backing = f.backing := rfl
@[simp] theorem FlashChip.reset_lastProgrammed (f : FlashChip) : (f.reset).lastProgrammed = f.lastProgrammed := rfl
@[simp] theorem FlashChip.reset_lastRead (f : FlashChip) : (f.reset).lastRead = f.lastRead := rfl
@[simp] theorem FlashChip.reset_dirty (f : FlashChip) : (f.reset).dirty = f.dirty := rfl

/-! ## FlashChip.writtenBack -/

@[simp] theorem FlashChip.writtenBack_geometry (f : FlashChip) : (f.writtenBack).geometry = f.geometry := rfl
@[simp] theorem FlashChip.writtenBack_state (f : FlashChip) : (f.writtenBack).state = f.state := rfl
@[simp] theorem FlashChip.writtenBack_backing (f : FlashChip) : (f.writtenBack).backing = f.backing := rfl
@[simp] theorem FlashChip.writtenBack_lastProgrammed (f : FlashChip) :
    (f.writtenBack).lastProgrammed = f.lastProgrammed := rfl
@[simp] theorem FlashChip.writtenBack_lastRead (f : FlashChip) : (f.writtenBack).lastRead = f.lastRead := rfl
@[simp] theorem FlashChip.writtenBack_dirty (f : FlashChip) : (f.writtenBack).dirty = false := rfl

/-! ## FlashChip.resetBy -/

@[simp] theorem FlashChip.resetBy_geometry (f : FlashChip) (kind : ResetKind) :
    (f.resetBy kind).geometry = f.geometry := by
  cases kind <;> rfl
@[simp] theorem FlashChip.resetBy_state (f : FlashChip) (kind : ResetKind) : (f.resetBy kind).state = .read := by
  cases kind <;> rfl
@[simp] theorem FlashChip.resetBy_backing (f : FlashChip) (kind : ResetKind) :
    (f.resetBy kind).backing = f.backing := by
  cases kind <;> rfl
@[simp] theorem FlashChip.resetBy_lastProgrammed (f : FlashChip) (kind : ResetKind) :
    (f.resetBy kind).lastProgrammed = f.lastProgrammed := by
  cases kind <;> rfl
@[simp] theorem FlashChip.resetBy_dirty (f : FlashChip) (kind : ResetKind) :
    (f.resetBy kind).dirty = if kind = .powerOn then false else f.dirty := by
  cases kind <;> rfl
@[simp] theorem FlashChip.resetBy_hardware (f : FlashChip) : f.resetBy .hardware = f.reset := rfl
@[simp] theorem FlashChip.resetBy_software (f : FlashChip) : f.resetBy .software = f.reset := rfl
@[simp] theorem FlashChip.resetBy_powerOn (f : FlashChip) :
    f.resetBy .powerOn = ⟨f.geometry, .read, f.backing, f.lastProgrammed, 0x00, false⟩ := rfl

/-! ## FlashChip.program -/

@[simp] theorem FlashChip.program_geometry (f : FlashChip) (a : Nat) (b : Byte) :
    (f.program a b).geometry = f.geometry := rfl
@[simp] theorem FlashChip.program_state (f : FlashChip) (a : Nat) (b : Byte) : (f.program a b).state = f.state := rfl
@[simp] theorem FlashChip.program_backing (f : FlashChip) (a : Nat) (b : Byte) :
    (f.program a b).backing = Memory.write f.backing a (f.byteAt a &&& b) := rfl
@[simp] theorem FlashChip.program_lastProgrammed (f : FlashChip) (a : Nat) (b : Byte) :
    (f.program a b).lastProgrammed = b := rfl
@[simp] theorem FlashChip.program_lastRead (f : FlashChip) (a : Nat) (b : Byte) :
    (f.program a b).lastRead = f.lastRead := rfl
@[simp] theorem FlashChip.program_dirty (f : FlashChip) (a : Nat) (b : Byte) : (f.program a b).dirty = true := rfl

/-! ## FlashChip.eraseChip -/

@[simp] theorem FlashChip.eraseChip_geometry (f : FlashChip) : (f.eraseChip).geometry = f.geometry := rfl
@[simp] theorem FlashChip.eraseChip_state (f : FlashChip) : (f.eraseChip).state = f.state := rfl
@[simp] theorem FlashChip.eraseChip_backing (f : FlashChip) :
    (f.eraseChip).backing = Memory.erase f.backing 0 f.geometry.size := rfl
@[simp] theorem FlashChip.eraseChip_lastProgrammed (f : FlashChip) :
    (f.eraseChip).lastProgrammed = f.lastProgrammed := rfl
@[simp] theorem FlashChip.eraseChip_lastRead (f : FlashChip) : (f.eraseChip).lastRead = f.lastRead := rfl
@[simp] theorem FlashChip.eraseChip_dirty (f : FlashChip) : (f.eraseChip).dirty = true := rfl

/-! ## FlashChip.eraseSector -/

@[simp] theorem FlashChip.eraseSector_geometry (f : FlashChip) (a : Nat) :
    (f.eraseSector a).geometry = f.geometry := rfl
@[simp] theorem FlashChip.eraseSector_state (f : FlashChip) (a : Nat) : (f.eraseSector a).state = f.state := rfl
@[simp] theorem FlashChip.eraseSector_backing (f : FlashChip) (a : Nat) :
    (f.eraseSector a).backing = Memory.erase f.backing (sectorBase a) Config.sectorSize := rfl
@[simp] theorem FlashChip.eraseSector_lastProgrammed (f : FlashChip) (a : Nat) :
    (f.eraseSector a).lastProgrammed = f.lastProgrammed := rfl
@[simp] theorem FlashChip.eraseSector_lastRead (f : FlashChip) (a : Nat) :
    (f.eraseSector a).lastRead = f.lastRead := rfl
@[simp] theorem FlashChip.eraseSector_dirty (f : FlashChip) (a : Nat) : (f.eraseSector a).dirty = true := rfl

/-! ## FlashChip.read -/

@[simp] theorem FlashChip.read_snd_geometry (f : FlashChip) (a : Nat) (cyc : Cycle) :
    (f.read a cyc).2.geometry = f.geometry := rfl
@[simp] theorem FlashChip.read_snd_state (f : FlashChip) (a : Nat) (cyc : Cycle) :
    (f.read a cyc).2.state = f.state.afterRead := rfl
@[simp] theorem FlashChip.read_snd_backing (f : FlashChip) (a : Nat) (cyc : Cycle) :
    (f.read a cyc).2.backing = f.backing := rfl
@[simp] theorem FlashChip.read_snd_lastProgrammed (f : FlashChip) (a : Nat) (cyc : Cycle) :
    (f.read a cyc).2.lastProgrammed = f.lastProgrammed := rfl
@[simp] theorem FlashChip.read_snd_lastRead (f : FlashChip) (a : Nat) (cyc : Cycle) :
    (f.read a cyc).2.lastRead = f.readByte a cyc := rfl
@[simp] theorem FlashChip.read_snd_dirty (f : FlashChip) (a : Nat) (cyc : Cycle) :
    (f.read a cyc).2.dirty = f.dirty := rfl

/-! ## Buffer.write -/

@[simp] theorem Buffer.write_sizeLog (r : Buffer) (o : Nat) (b : Byte) : (r.write o b).sizeLog = r.sizeLog := rfl
@[simp] theorem Buffer.write_cells (r : Buffer) (o : Nat) (b : Byte) :
    (r.write o b).cells = Memory.write r.cells o b := rfl
@[simp] theorem Buffer.write_size (r : Buffer) (o : Nat) (b : Byte) : (r.write o b).size = r.size := rfl

/-! ## State.answer -/

@[simp] theorem State.answer_ctrl (s : State) (out : Option Byte) (c : Controller) : (s.answer out c).ctrl = c := rfl
@[simp] theorem State.answer_inbox (s : State) (out : Option Byte) (c : Controller) :
    (s.answer out c).inbox = s.inbox := rfl
@[simp] theorem State.answer_dataOut (s : State) (out : Option Byte) (c : Controller) :
    (s.answer out c).dataOut = out := rfl
@[simp] theorem State.answer_caller (s : State) (out : Option Byte) (c : Controller) :
    (s.answer out c).caller = s.caller := rfl

/-! ## State.withFetchWord -/

@[simp] theorem State.withFetchWord_ctrl (s : State) (nbits w : Nat) : (s.withFetchWord nbits w).ctrl = s.ctrl := rfl
@[simp] theorem State.withFetchWord_inbox (s : State) (nbits w : Nat) :
    (s.withFetchWord nbits w).inbox = tableBytes nbits w ++ s.inbox := rfl
@[simp] theorem State.withFetchWord_dataOut (s : State) (nbits w : Nat) :
    (s.withFetchWord nbits w).dataOut = s.dataOut := rfl
@[simp] theorem State.withFetchWord_caller (s : State) (nbits w : Nat) :
    (s.withFetchWord nbits w).caller = s.callerOf nbits w := rfl

/-! ## UltiMem.writeReg -/

@[simp] theorem UltiMem.writeReg_regs (u : UltiMem) (i : Fin 16) (b : Byte) :
    (u.writeReg i b).regs = u.regs.set i (b &&& u.params.wmask.get i) := rfl
@[simp] theorem UltiMem.writeReg_ram (u : UltiMem) (i : Fin 16) (b : Byte) : (u.writeReg i b).ram = u.ram := rfl
@[simp] theorem UltiMem.writeReg_flash (u : UltiMem) (i : Fin 16) (b : Byte) : (u.writeReg i b).flash = u.flash := rfl
@[simp] theorem UltiMem.writeReg_params (u : UltiMem) (i : Fin 16) (b : Byte) :
    (u.writeReg i b).params = u.params := rfl

/-! ## UltiMem.reset -/

@[simp] theorem UltiMem.reset_regs (u : UltiMem) (kind : ResetKind) : (u.reset kind).regs = u.params.resetRegs := rfl
@[simp] theorem UltiMem.reset_ram (u : UltiMem) (kind : ResetKind) : (u.reset kind).ram = u.ram := rfl
@[simp] theorem UltiMem.reset_flash (u : UltiMem) (kind : ResetKind) :
    (u.reset kind).flash = u.flash.resetBy kind := rfl
@[simp] theorem UltiMem.reset_params (u : UltiMem) (kind : ResetKind) : (u.reset kind).params = u.params := rfl

/-! ## FinalExpansion.setReg, register a -/

@[simp] theorem FinalExpansion.setReg_a_regA (e : FinalExpansion) (b : Byte) : (e.setReg b .a).regA = b := rfl
@[simp] theorem FinalExpansion.setReg_a_regB (e : FinalExpansion) (b : Byte) : (e.setReg b .a).regB = e.regB := rfl
@[simp] theorem FinalExpansion.setReg_a_lockBit (e : FinalExpansion) (b : Byte) :
    (e.setReg b .a).lockBit = e.lockBit := rfl
@[simp] theorem FinalExpansion.setReg_a_ram (e : FinalExpansion) (b : Byte) : (e.setReg b .a).ram = e.ram := rfl
@[simp] theorem FinalExpansion.setReg_a_flash (e : FinalExpansion) (b : Byte) : (e.setReg b .a).flash = e.flash := rfl
@[simp] theorem FinalExpansion.setReg_a_table (e : FinalExpansion) (b : Byte) : (e.setReg b .a).table = e.table := rfl

/-! ## FinalExpansion.setReg, register b -/

@[simp] theorem FinalExpansion.setReg_b_regA (e : FinalExpansion) (b : Byte) : (e.setReg b .b).regA = e.regA := rfl
@[simp] theorem FinalExpansion.setReg_b_regB (e : FinalExpansion) (b : Byte) : (e.setReg b .b).regB = b := rfl
@[simp] theorem FinalExpansion.setReg_b_lockBit (e : FinalExpansion) (b : Byte) :
    (e.setReg b .b).lockBit = e.lockBit := rfl
@[simp] theorem FinalExpansion.setReg_b_ram (e : FinalExpansion) (b : Byte) : (e.setReg b .b).ram = e.ram := rfl
@[simp] theorem FinalExpansion.setReg_b_flash (e : FinalExpansion) (b : Byte) : (e.setReg b .b).flash = e.flash := rfl
@[simp] theorem FinalExpansion.setReg_b_table (e : FinalExpansion) (b : Byte) : (e.setReg b .b).table = e.table := rfl

/-! ## FinalExpansion.reset -/

@[simp] theorem FinalExpansion.reset_regA (e : FinalExpansion) (kind : ResetKind) : (e.reset kind).regA = 0x00 := rfl
@[simp] theorem FinalExpansion.reset_regB (e : FinalExpansion) (kind : ResetKind) : (e.reset kind).regB = 0x00 := rfl
@[simp] theorem FinalExpansion.reset_lockBit (e : FinalExpansion) (kind : ResetKind) :
    (e.reset kind).lockBit = true := rfl
@[simp] theorem FinalExpansion.reset_ram (e : FinalExpansion) (kind : ResetKind) : (e.reset kind).ram = e.ram := rfl
@[simp] theorem FinalExpansion.reset_flash (e : FinalExpansion) (kind : ResetKind) :
    (e.reset kind).flash = e.flash.resetBy kind := rfl
@[simp] theorem FinalExpansion.reset_table (e : FinalExpansion) (kind : ResetKind) :
    (e.reset kind).table = e.table := rfl

/-! ## VicFlash.setReg, bank register -/

@[simp] theorem VicFlash.setReg_bank_bankReg (v : VicFlash) (b : Byte) : (v.setReg b .bank).bankReg = b := rfl
@[simp] theorem VicFlash.setReg_bank_cfgReg (v : VicFlash) (b : Byte) : (v.setReg b .bank).cfgReg = v.cfgReg := rfl
@[simp] theorem VicFlash.setReg_bank_cfgEn (v : VicFlash) (b : Byte) : (v.setReg b .bank).cfgEn = v.cfgEn := rfl
@[simp] theorem VicFlash.setReg_bank_ram (v : VicFlash) (b : Byte) : (v.setReg b .bank).ram = v.ram := rfl
@[simp] theorem VicFlash.setReg_bank_flash (v : VicFlash) (b : Byte) : (v.setReg b .bank).flash = v.flash := rfl

/-! ## VicFlash.setReg, cfg register -/

@[simp] theorem VicFlash.setReg_cfg_bankReg (v : VicFlash) (b : Byte) : (v.setReg b .cfg).bankReg = v.bankReg := rfl
@[simp] theorem VicFlash.setReg_cfg_cfgReg (v : VicFlash) (b : Byte) : (v.setReg b .cfg).cfgReg = b := rfl
@[simp] theorem VicFlash.setReg_cfg_cfgEn (v : VicFlash) (b : Byte) : (v.setReg b .cfg).cfgEn = v.cfgEn := rfl
@[simp] theorem VicFlash.setReg_cfg_ram (v : VicFlash) (b : Byte) : (v.setReg b .cfg).ram = v.ram := rfl
@[simp] theorem VicFlash.setReg_cfg_flash (v : VicFlash) (b : Byte) : (v.setReg b .cfg).flash = v.flash := rfl

/-! ## VicFlash.latch -/

@[simp] theorem VicFlash.latch_bankReg (v : VicFlash) : (v.latch).bankReg = v.bankReg := rfl
@[simp] theorem VicFlash.latch_cfgReg (v : VicFlash) : (v.latch).cfgReg = v.cfgReg := rfl
@[simp] theorem VicFlash.latch_cfgEn (v : VicFlash) : (v.latch).cfgEn = cfgEnLatch v.cfgReg := rfl
@[simp] theorem VicFlash.latch_ram (v : VicFlash) : (v.latch).ram = v.ram := rfl
@[simp] theorem VicFlash.latch_flash (v : VicFlash) : (v.latch).flash = v.flash := rfl

/-! ## VicFlash.reset -/

@[simp] theorem VicFlash.reset_bankReg (v : VicFlash) (kind : ResetKind) : (v.reset kind).bankReg = 0x00 := rfl
@[simp] theorem VicFlash.reset_cfgReg (v : VicFlash) (kind : ResetKind) : (v.reset kind).cfgReg = 0x40 := rfl
@[simp] theorem VicFlash.reset_cfgEn (v : VicFlash) (kind : ResetKind) : (v.reset kind).cfgEn = true := rfl
@[simp] theorem VicFlash.reset_ram (v : VicFlash) (kind : ResetKind) : (v.reset kind).ram = v.ram := rfl
@[simp] theorem VicFlash.reset_flash (v : VicFlash) (kind : ResetKind) :
    (v.reset kind).flash = v.flash.resetBy kind := rfl

/-! ## MegaCart.reset, software -/

@[simp] theorem MegaCart.reset_software_bankLow (m : MegaCart) : (m.reset .software).bankLow = m.bankLow := rfl
@[simp] theorem MegaCart.reset_software_bankHigh (m : MegaCart) : (m.reset .software).bankHigh = m.bankHigh := rfl
@[simp] theorem MegaCart.reset_software_outputEnable (m : MegaCart) :
    (m.reset .software).outputEnable = !m.outputEnable := rfl
@[simp] theorem MegaCart.reset_software_nvramEnable (m : MegaCart) :
    (m.reset .software).nvramEnable = m.nvramEnable := rfl
@[simp] theorem MegaCart.reset_software_ram (m : MegaCart) : (m.reset .software).ram = m.ram := rfl
@[simp] theorem MegaCart.reset_software_nvram (m : MegaCart) : (m.reset .software).nvram = m.nvram := rfl
@[simp] theorem MegaCart.reset_software_rom (m : MegaCart) : (m.reset .software).rom = m.rom := rfl

/-! ## MegaCart.reset, hardware -/

@[simp] theorem MegaCart.reset_hardware_bankLow (m : MegaCart) : (m.reset .hardware).bankLow = 0x00 := rfl
@[simp] theorem MegaCart.reset_hardware_bankHigh (m : MegaCart) : (m.reset .hardware).bankHigh = 0x00 := rfl
@[simp] theorem MegaCart.reset_hardware_outputEnable (m : MegaCart) : (m.reset .hardware).outputEnable = false := rfl
@[simp] theorem MegaCart.reset_hardware_nvramEnable (m : MegaCart) : (m.reset .hardware).nvramEnable = true := rfl
@[simp] theorem MegaCart.reset_hardware_ram (m : MegaCart) : (m.reset .hardware).ram = m.ram := rfl
@[simp] theorem MegaCart.reset_hardware_nvram (m : MegaCart) : (m.reset .hardware).nvram = m.nvram := rfl
@[simp] theorem MegaCart.reset_hardware_rom (m : MegaCart) : (m.reset .hardware).rom = m.rom := rfl

/-! ## MegaCart.reset, power-on -/

@[simp] theorem MegaCart.reset_powerOn_bankLow (m : MegaCart) : (m.reset .powerOn).bankLow = 0x00 := rfl
@[simp] theorem MegaCart.reset_powerOn_bankHigh (m : MegaCart) : (m.reset .powerOn).bankHigh = 0x00 := rfl
@[simp] theorem MegaCart.reset_powerOn_outputEnable (m : MegaCart) : (m.reset .powerOn).outputEnable = false := rfl
@[simp] theorem MegaCart.reset_powerOn_nvramEnable (m : MegaCart) : (m.reset .powerOn).nvramEnable = true := rfl
@[simp] theorem MegaCart.reset_powerOn_ram (m : MegaCart) : (m.reset .powerOn).ram = m.ram := rfl
@[simp] theorem MegaCart.reset_powerOn_nvram (m : MegaCart) : (m.reset .powerOn).nvram = m.nvram := rfl
@[simp] theorem MegaCart.reset_powerOn_rom (m : MegaCart) : (m.reset .powerOn).rom = m.rom := rfl

end Sys2Proof.Machine
end

