-- ==== Sys2Proof/Laws/Flash.lean ====
section
/-! SUPPORT. What each shared operation over a FlashChip can do, said once: program, transition, read, store, and the
operations over State that run them. -/

namespace Sys2Proof.Machine

/-! ## Flags -/

/-- The status byte bit by bit (R87, R166). -/
theorem statusByte_bits (lp : Byte) (cyc : Cycle) :
    (statusByte lp cyc).getLsbD 7 = !lp.getLsbD 7 ∧ (statusByte lp cyc).getLsbD 6 = cyc.getLsbD 1 ∧
    (statusByte lp cyc).getLsbD 5 = true ∧ ∀ k, k < 5 → (statusByte lp cyc).getLsbD k = false := by
  have hk : ∀ k, k < 5 → k = 0 ∨ k = 1 ∨ k = 2 ∨ k = 3 ∨ k = 4 := by omega
  refine ⟨?_, ?_, ?_, fun k h => ?_⟩
  · simp [statusByte]
  · simp [statusByte]
  · simp [statusByte]
  · rcases hk k h with rfl | rfl | rfl | rfl | rfl <;> simp [statusByte]

/-- A program succeeds exactly where no bit would have to be set (R160). -/
theorem programSucceeds_iff (old b : Byte) : programSucceeds old b = true ↔ b &&& ~~~ old = 0 := by
  revert old b
  unfold programSucceeds
  intro old b
  rw [beq_iff_eq]
  constructor
  · intro h
    rw [← h]
    ext k hk
    simp +contextual
  · intro h
    ext k hk
    have := congrArg (fun x : BitVec 8 => x[k]) h
    simp at this ⊢
    exact this

/-! ## The chip -/

/-- The PROGRAM_DATA cycle is a program and a move of the sequencer (R130). -/
theorem FlashChip.programCycle_eq (f : FlashChip) (a : Nat) (b : Byte) :
    f.programCycle a b = (f.program a b).goto
      (if programSucceeds (f.byteAt a) b then .byteProgramHappening else .byteProgramError) := by
  unfold FlashChip.programCycle FlashChip.enterProgramError
  split <;> rfl

/-- Everything one transition can do (R121): move the sequencer, program one byte, erase the chip, erase a sector. -/
theorem FlashChip.transition_cases (f : FlashChip) (a : Nat) (b : Byte) :
    (f.state ≠ .byteProgram ∧ ∃ q, f.transition a b = f.goto q) ∨
    (f.state = .byteProgram ∧ f.transition a b = f.programCycle a b) ∨
    (f.state = .eraseSelect ∧ b = 0x10 ∧ f.geometry.magic1 a = true ∧
      f.transition a b = f.eraseChip.goto .chipErase) ∨
    (f.state = .eraseSelect ∧ b = 0x30 ∧ f.transition a b = (f.eraseSector a).goto .sectorErase) := by
  have self : ∃ q, f = f.goto q := ⟨f.state, rfl⟩
  unfold FlashChip.transition
  split
  case h_4 h => exact .inr (.inl ⟨h, rfl⟩)
  case h_7 h =>
    split
    · rename_i hc
      simp only [Bool.and_eq_true, beq_iff_eq] at hc
      exact .inr (.inr (.inl ⟨h, hc.2, hc.1, rfl⟩))
    · split
      · rename_i hc
        exact .inr (.inr (.inr ⟨h, by simpa using hc, rfl⟩))
      · exact .inl ⟨by simp [h], _, rfl⟩
  all_goals
    rename_i h
    refine .inl ⟨by simp [h], ?_⟩
    repeat' split
    all_goals first | exact self | exact ⟨_, rfl⟩

/-- The error state, the one place where the last-programmed latch is read, is entered only by a program, which writes
the latch first, so what the latch held before cannot be observed (10_state R16; log 8). -/
theorem FlashChip.lastProgrammed_of_enters_error (f : FlashChip) (a : Nat) (b : Byte) (h : f.state ≠ .byteProgramError)
    (he : (f.transition a b).state = .byteProgramError) : (f.transition a b).lastProgrammed = b := by
  unfold FlashChip.transition at he ⊢
  split at he <;> (try split at he) <;> (try split at he) <;> (try split at he) <;> simp_all [FlashChip.programCycle_eq]

/-- A transition never touches the geometry or the last-read latch, and never clears `dirty`. -/
theorem FlashChip.transition_keeps (f : FlashChip) (a : Nat) (b : Byte) :
    (f.transition a b).geometry = f.geometry ∧ (f.transition a b).lastRead = f.lastRead ∧
    (f.dirty = true → (f.transition a b).dirty = true) ∧
    ((f.transition a b).dirty = false →
      (f.transition a b).lastProgrammed = f.lastProgrammed ∧ (f.transition a b).backing = f.backing) := by
  rcases f.transition_cases a b with ⟨-, q, h⟩ | ⟨-, h⟩ | ⟨-, -, -, h⟩ | ⟨-, -, h⟩ <;> rw [h]
  · exact ⟨rfl, rfl, id, fun _ => ⟨rfl, rfl⟩⟩
  · rw [f.programCycle_eq]
    exact ⟨rfl, rfl, fun _ => rfl, fun h => by simp at h⟩
  · exact ⟨rfl, rfl, fun _ => rfl, fun h => by simp at h⟩
  · exact ⟨rfl, rfl, fun _ => rfl, fun h => by simp at h⟩

/-- A transition at an offset inside the chip keeps the chip well-formed. -/
theorem FlashChip.wf_transition (f : FlashChip) (a : Nat) (b : Byte) (h : f.wf) (ha : a < f.geometry.size) :
    (f.transition a b).wf := by
  obtain ⟨hg, hm, hb⟩ := h
  rcases f.transition_cases a b with ⟨-, q, h⟩ | ⟨-, h⟩ | ⟨-, -, -, h⟩ | ⟨-, -, h⟩ <;> rw [h]
  · exact ⟨hg, hm, hb⟩
  · rw [f.programCycle_eq]
    exact ⟨hg, Memory.wf_write _ _ _ hm, Memory.within_write _ _ _ _ hb ha⟩
  · exact ⟨hg, Memory.wf_erase _ _ _ hm, Memory.within_erase _ _ _ _ hb⟩
  · exact ⟨hg, Memory.wf_erase _ _ _ hm, Memory.within_erase _ _ _ _ hb⟩

/-- A byte after a program, in a well-formed chip. -/
theorem FlashChip.byteAt_program (f : FlashChip) (a o : Nat) (b : Byte) (h : f.wf) :
    (f.program a b).byteAt o = if o = a then f.byteAt a &&& b else f.byteAt o :=
  Memory.byteAt_write f.backing a o _ h.2.1.1

/-- A byte after a sector erase (R164). -/
theorem FlashChip.byteAt_eraseSector (f : FlashChip) (a o : Nat) :
    (f.eraseSector a).byteAt o = if o / 0x10000 = a / 0x10000 then 0xFF else f.byteAt o := by
  unfold FlashChip.eraseSector FlashChip.byteAt
  rw [Memory.byteAt_erase]
  have : (sectorBase a ≤ o ∧ o < sectorBase a + Config.sectorSize) ↔ o / 0x10000 = a / 0x10000 := by
    simp only [sectorBase, Config.sectorSize]
    omega
  simp only [this, Config.unlisted]

/-- A byte after a chip erase (R163). -/
theorem FlashChip.byteAt_eraseChip (f : FlashChip) (o : Nat) :
    f.eraseChip.byteAt o = if o < f.geometry.size then 0xFF else f.byteAt o := by
  unfold FlashChip.eraseChip FlashChip.byteAt
  rw [Memory.byteAt_erase]
  simp [Config.unlisted]

/-- A store never touches the geometry or the last-read latch, and never clears `dirty`. -/
theorem FlashChip.store_keeps (f : FlashChip) (a : Nat) (b : Byte) (rmw : Bool) :
    (f.store a b rmw).geometry = f.geometry ∧ (f.store a b rmw).lastRead = f.lastRead ∧
    (f.dirty = true → (f.store a b rmw).dirty = true) ∧
    ((f.store a b rmw).dirty = false →
      (f.store a b rmw).lastProgrammed = f.lastProgrammed ∧ (f.store a b rmw).backing = f.backing) := by
  have h1 := f.transition_keeps a f.lastRead
  have h2 := (f.transition a f.lastRead).transition_keeps a b
  cases rmw
  · exact f.transition_keeps a b
  · refine ⟨h2.1.trans h1.1, h2.2.1.trans h1.2.1, fun h => h2.2.2.1 (h1.2.2.1 h), fun h => ?_⟩
    have hd : (f.transition a f.lastRead).dirty = false := by
      by_contra hne
      have := h2.2.2.1 (by simpa using hne)
      exact absurd (h ▸ this : (false : Bool) = true) (by simp)
    exact ⟨(h2.2.2.2 h).1.trans (h1.2.2.2 hd).1, (h2.2.2.2 h).2.trans (h1.2.2.2 hd).2⟩

/-- A store at an offset inside the chip keeps the chip well-formed. -/
theorem FlashChip.wf_store (f : FlashChip) (a : Nat) (b : Byte) (rmw : Bool) (h : f.wf)
    (ha : a < f.geometry.size) : (f.store a b rmw).wf := by
  cases rmw
  · exact f.wf_transition a b h ha
  · refine FlashChip.wf_transition _ a b (f.wf_transition a _ h ha) ?_
    rw [(f.transition_keeps a f.lastRead).1]
    exact ha

/-- A read keeps the chip well-formed: it moves the sequencer and latches a byte (R106). -/
theorem FlashChip.wf_read (f : FlashChip) (a : Nat) (cyc : Cycle) (h : f.wf) : (f.read a cyc).2.wf := h

/-! ## The chip inside the machine -/

/-- A controller with a chip has the chip it is given. -/
theorem Controller.flash?_withFlash (c : Controller) (f g : FlashChip) (h : c.flash? = some f) :
    (c.withFlash g).flash? = some g := by
  cases c <;> first | rfl | cases h

/-- Putting a controller's own chip back changes nothing. -/
theorem Controller.withFlash_self (c : Controller) (f : FlashChip) (h : c.flash? = some f) : c.withFlash f = c := by
  cases c <;> cases h <;> rfl

/-- Of two replacements the later one stands. -/
theorem Controller.withFlash_withFlash (c : Controller) (f g : FlashChip) :
    (c.withFlash f).withFlash g = c.withFlash g := by
  cases c <;> rfl

/-- Only a MegaCart has no chip (R280). -/
theorem Controller.flash?_eq_none (c : Controller) : c.flash? = none ↔ ∃ m, c = .megaCart m := by
  cases c <;> simp [Controller.flash?]

/-- The chip of a well-formed controller is well-formed, and so is the controller with another such chip. -/
theorem Controller.wf_flash (c : Controller) (f : FlashChip) (h : c.wf) (hf : c.flash? = some f) :
    f.wf ∧ ∀ g : FlashChip, g.wf → (c.withFlash g).wf := by
  cases c with
  | ultiMem u => cases hf; exact ⟨h.2.1, fun g hg => ⟨h.1, hg, h.2.2⟩⟩
  | finalExpansion e => cases hf; exact ⟨h.2, fun g hg => ⟨h.1, hg⟩⟩
  | megaCart m => cases hf
  | vicFlash v => cases hf; exact ⟨h.2.1, fun g hg => ⟨h.1, hg, h.2.2⟩⟩

/-- An operation of the chip at an offset inside it. -/
theorem onFlash_eq (s : State) (f : FlashChip) (a : Offset) (op : FlashChip → Nat → Option Byte × FlashChip)
    (hf : s.ctrl.flash? = some f) (ha : a.toNat < f.geometry.size) :
    onFlash s a op = .next (s.withChip (op f a.toNat).2 (op f a.toNat).1) := by
  unfold onFlash
  simp only [hf, ha, if_true]
  rfl

/-- Every outcome of an operation of the chip. -/
theorem onFlash_cases (s : State) (a : Offset) (op : FlashChip → Nat → Option Byte × FlashChip) :
    ((∃ m, s.ctrl = .megaCart m) ∧ onFlash s a op = .refused .noFlashChip) ∨
    ∃ f, s.ctrl.flash? = some f ∧
      ((a.toNat < f.geometry.size ∧ onFlash s a op = .next (s.withChip (op f a.toNat).2 (op f a.toNat).1)) ∨
       (f.geometry.size ≤ a.toNat ∧ onFlash s a op = .refused .offsetOutOfRange)) := by
  cases hf : s.ctrl.flash? with
  | none => exact .inl ⟨s.ctrl.flash?_eq_none.1 hf, by simp [onFlash, hf]⟩
  | some f =>
    refine .inr ⟨f, rfl, ?_⟩
    by_cases ha : a.toNat < f.geometry.size
    · exact .inl ⟨ha, onFlash_eq s f a op hf ha⟩
    · exact .inr ⟨by omega, by simp [onFlash, hf, ha]⟩

/-- A command cycle whose row does, where it is selected, what `transition` does is the store of its byte. -/
theorem commandCycle_eq_store (s : State) (a : Offset) (b : Byte) (selected : FlashChip → Nat → Bool)
    (effect : FlashChip → Nat → FlashChip) (h : ∀ f o, selected f o = true → effect f o = f.transition o b) :
    commandCycle s a b selected effect = exec (.fStore a b) s := by
  have : (fun (f : FlashChip) (o : Nat) => ((none : Option Byte),
      if selected f o then effect f o else f.transition o b)) = fun f o => (none, f.store o b false) := by
    funext f o
    by_cases hs : selected f o = true
    · simp [hs, h f o hs, FlashChip.store]
    · simp [hs, FlashChip.store]
  exact congrArg (onFlash s a) this

end Sys2Proof.Machine
end

