-- ==== Sys2Proof/Laws/Access.lean ====
section
/-! SUPPORT. What each shared operation of a controller access can do, said once: windows, offsets, hooks, registers,
read and write through a window. -/

namespace Sys2Proof.Machine

/-! ## Windows and offsets -/

/-- The seven windows as ranges (R56). -/
theorem windowOf_iff (addr : Addr) :
    (windowOf addr = some .ram123 ↔ 0x0400 ≤ addr.toNat ∧ addr.toNat ≤ 0x0FFF) ∧
    (windowOf addr = some .blk1 ↔ 0x2000 ≤ addr.toNat ∧ addr.toNat ≤ 0x3FFF) ∧
    (windowOf addr = some .blk2 ↔ 0x4000 ≤ addr.toNat ∧ addr.toNat ≤ 0x5FFF) ∧
    (windowOf addr = some .blk3 ↔ 0x6000 ≤ addr.toNat ∧ addr.toNat ≤ 0x7FFF) ∧
    (windowOf addr = some .blk5 ↔ 0xA000 ≤ addr.toNat ∧ addr.toNat ≤ 0xBFFF) ∧
    (windowOf addr = some .io2 ↔ 0x9800 ≤ addr.toNat ∧ addr.toNat ≤ 0x9BFF) ∧
    (windowOf addr = some .io3 ↔ 0x9C00 ≤ addr.toNat ∧ addr.toNat ≤ 0x9FFF) := by
  unfold windowOf
  dsimp only
  split_ifs <;> simp <;> omega

/-- Masking to a power of two is the remainder (R60). -/
theorem maskLen_two_pow (o k : Nat) : maskLen o (2 ^ k) = o % 2 ^ k := Nat.and_two_pow_sub_one_eq_mod o k

/-- The offset formula over a buffer whose length is a power of two (R60, R61). -/
theorem compose_two_pow (addr : Addr) (bank stride base inv k : Nat) :
    compose addr windowMask bank stride base inv (2 ^ k) =
      ((addr.toNat % 0x2000 + bank * stride + base) ^^^ inv) % 2 ^ k := by
  unfold compose
  rw [maskLen_two_pow, show addr.toNat &&& windowMask = addr.toNat % 0x2000 from
    Nat.and_two_pow_sub_one_eq_mod addr.toNat 13]

/-- A composed offset lies inside the buffer (R63). -/
theorem compose_lt (addr : Addr) (mask bank stride base inv k : Nat) :
    compose addr mask bank stride base inv (2 ^ k) < 2 ^ k := by
  unfold compose
  rw [maskLen_two_pow]
  exact Nat.mod_lt _ (Nat.two_pow_pos k)

/-! ## Hooks -/

/-- The Final Expansion hook clears the lock bit in BLK5 and touches nothing else (R246). -/
theorem FinalExpansion.hook_cases (e : FinalExpansion) (w : Window) :
    (w = .blk5 ∧ e.hook w = { e with lockBit := false }) ∨ (w ≠ .blk5 ∧ e.hook w = e) := by
  unfold FinalExpansion.hook
  split
  · exact .inl ⟨‹_›, rfl⟩
  · exact .inr ⟨‹_›, rfl⟩

/-- What the read hook can do. -/
theorem Controller.readHook_cases (c : Controller) (w : Window) :
    c.readHook w = c ∨
    ∃ e, c = .finalExpansion e ∧ w = .blk5 ∧ c.readHook w = .finalExpansion { e with lockBit := false } := by
  cases c with
  | finalExpansion e =>
    rcases e.hook_cases w with ⟨hw, h⟩ | ⟨-, h⟩
    · exact .inr ⟨e, rfl, hw, congrArg _ h⟩
    · exact .inl (congrArg _ h)
  | ultiMem _ | megaCart _ | vicFlash _ => exact .inl rfl

/-- What the write hook can do. -/
theorem Controller.writeHook_cases (c : Controller) (w : Window) (addr : Addr) (b : Byte) :
    c.writeHook w addr b = c ∨
    (∃ e, c = .finalExpansion e ∧ w = .blk5 ∧ c.writeHook w addr b = .finalExpansion { e with lockBit := false }) ∨
    ∃ m, c = .megaCart m ∧ w = .io3 ∧ c.writeHook w addr b = .megaCart (m.controlWrite addr b) := by
  cases c with
  | finalExpansion e =>
    rcases e.hook_cases w with ⟨hw, h⟩ | ⟨-, h⟩
    · exact .inr (.inl ⟨e, rfl, hw, congrArg _ h⟩)
    · exact .inl (congrArg _ h)
  | megaCart m =>
    by_cases hw : w = .io3
    · exact .inr (.inr ⟨m, rfl, hw, by simp [Controller.writeHook, MegaCart.writeHook, hw]⟩)
    · exact .inl (by simp [Controller.writeHook, MegaCart.writeHook, hw])
  | ultiMem _ | vicFlash _ => exact .inl rfl

/-- What a whole MegaCart control write can do (R284): the NVRAM byte, the two banks and the NVRAM enable. -/
theorem MegaCart.controlWrite_cases (m : MegaCart) (addr : Addr) (b : Byte) :
    ∃ bl bh ne, m.controlWrite addr b =
      { m with
        nvram := (if m.nvramEnable then m.nvram.write (compose addr windowMask 0 0 0 0 m.nvram.size) b else m.nvram)
        bankLow := bl, bankHigh := bh, nvramEnable := ne } := by
  unfold MegaCart.controlWrite MegaCart.storeNvram MegaCart.decodeControl
  cases m.nvramEnable <;> cases addr.getLsbD 8 <;> cases addr.getLsbD 7 <;> exact ⟨_, _, _, rfl⟩

/-- No hook touches the chip. -/
theorem Controller.flash?_hooks (c : Controller) (w : Window) (addr : Addr) (b : Byte) :
    (c.readHook w).flash? = c.flash? ∧ (c.writeHook w addr b).flash? = c.flash? := by
  constructor
  · rcases c.readHook_cases w with h | ⟨e, rfl, -, h⟩ <;> rw [h]
    rfl
  · rcases c.writeHook_cases w addr b with h | ⟨e, rfl, -, h⟩ | ⟨m, rfl, -, h⟩ <;> rw [h]
    · rfl
    · rfl

/-- The hooks keep a controller well-formed. -/
theorem Controller.wf_hooks (c : Controller) (w : Window) (addr : Addr) (b : Byte) (h : c.wf) :
    (c.readHook w).wf ∧ (c.writeHook w addr b).wf := by
  constructor
  · rcases c.readHook_cases w with hc | ⟨e, rfl, -, hc⟩ <;> rw [hc]
    · exact h
    · exact h
  · rcases c.writeHook_cases w addr b with hc | ⟨e, rfl, -, hc⟩ | ⟨m, rfl, -, hc⟩ <;> rw [hc]
    · exact h
    · exact h
    · obtain ⟨bl, bh, ne, hm⟩ := m.controlWrite_cases addr b
      rw [hm]
      refine ⟨h.1, ?_, h.2.2⟩
      show Buffer.wf (if _ then _ else _)
      split
      · exact Buffer.wf_write _ _ _ h.2.1 (compose_lt addr windowMask 0 0 0 0 m.nvram.sizeLog)
      · exact h.2.1

/-! ## Reset -/

/-- A controller reset does to the chip what `FlashChip.resetBy` says (R193, R365). -/
theorem Controller.flash?_reset (c : Controller) (kind : ResetKind) :
    (c.reset kind).flash? = c.flash?.map fun f => f.resetBy kind := by
  cases c <;> rfl

/-- A controller reset keeps a controller well-formed. -/
theorem Controller.wf_reset (c : Controller) (kind : ResetKind) (h : c.wf) : (c.reset kind).wf := by
  have chip : ∀ f : FlashChip, f.wf → (f.resetBy kind).wf := by
    intro f hf
    cases kind <;> exact hf
  cases c with
  | ultiMem u => exact ⟨h.1, chip _ h.2.1, h.2.2.2, h.2.2.2⟩
  | finalExpansion e => exact ⟨h.1, chip _ h.2⟩
  | megaCart m => cases kind <;> exact h
  | vicFlash v => exact ⟨h.1, chip _ h.2.1, by simp⟩

/-! ## Registers -/

/-- A register write keeps a controller well-formed and touches only registers. -/
theorem Controller.wf_configWrite (c c' : Controller) (addr : Addr) (b : Byte) (h : c.wf)
    (hw : c.configWrite? addr b = some c') : c'.wf := by
  cases c with
  | ultiMem u =>
    simp only [Controller.configWrite?] at hw
    split at hw
    · cases hw
      refine ⟨h.1, h.2.1, fun i => ?_, h.2.2.2⟩
      have hi := h.2.2.1 i
      simp only [UltiMem.writeReg_regs, UltiMem.writeReg_params, Vector.get_eq_getElem] at hi ⊢
      by_cases hij : (umRegisterIndex addr).val = i.val
      · have : umRegisterIndex addr = i := Fin.ext hij
        subst this
        rw [Vector.getElem_set_self]
        ext k hk
        simp
      · rw [Vector.getElem_set_ne _ _ hij]
        exact hi
    · cases hw
  | finalExpansion e =>
    simp only [Controller.configWrite?, Option.map_eq_some_iff] at hw
    obtain ⟨r, -, rfl⟩ := hw
    cases r <;> (simp only [FinalExpansion.writeReg]; split <;> exact h)
  | megaCart m =>
    simp only [Controller.configWrite?] at hw
    split at hw
    · cases hw; exact h
    · cases hw
  | vicFlash v =>
    simp only [Controller.configWrite?, Option.map_eq_some_iff] at hw
    obtain ⟨r, -, rfl⟩ := hw
    simp only [VicFlash.writeReg]
    split
    · exact h
    · cases r <;> exact ⟨h.1, h.2.1, rfl⟩

/-! ## Buffers -/

/-- A byte of a buffer after a write to it. -/
theorem Controller.bufferByte_bufferWrite (c : Controller) (buf : BufferName) (o o' : Nat) (b : Byte) (h : c.wf) :
    (c.bufferWrite buf o b).bufferByte buf o' = if o' = o then b else c.bufferByte buf o' := by
  cases c with
  | ultiMem u => cases buf <;> exact Buffer.byteAt_write u.ram o o' b h.1
  | finalExpansion e => cases buf <;> exact Buffer.byteAt_write e.ram o o' b h.1
  | megaCart m =>
    cases buf
    · exact Buffer.byteAt_write m.ram o o' b h.1
    · exact Buffer.byteAt_write m.nvram o o' b h.2.1
  | vicFlash v => cases buf <;> exact Buffer.byteAt_write v.ram o o' b h.1

/-- A buffer write inside the buffer keeps a controller well-formed. -/
theorem Controller.wf_bufferWrite (c : Controller) (buf : BufferName) (o : Nat) (b : Byte) (h : c.wf)
    (ho : o < c.bufferSize buf) : (c.bufferWrite buf o b).wf := by
  cases c with
  | ultiMem u => cases buf <;> exact ⟨Buffer.wf_write _ _ _ h.1 ho, h.2⟩
  | finalExpansion e => cases buf <;> exact ⟨Buffer.wf_write _ _ _ h.1 ho, h.2⟩
  | megaCart m =>
    cases buf
    · exact ⟨Buffer.wf_write _ _ _ h.1 ho, h.2⟩
    · exact ⟨h.1, Buffer.wf_write _ _ _ h.2.1 ho, h.2.2⟩
  | vicFlash v => cases buf <;> exact ⟨Buffer.wf_write _ _ _ h.1 ho, h.2⟩

/-! ## Read and write through a window -/

/-- Every outcome of a read through a window (R184, R343). -/
theorem Controller.read_cases (c : Controller) (w : Window) (addr : Addr) (busLast : Byte) (cyc : Cycle) :
    (∃ v, c.read w addr busLast cyc = (v, c.readHook w)) ∨
    ∃ o f, (c.readHook w).resolve w addr .load = .flash o ∧ c.flash? = some f ∧
      c.read w addr busLast cyc = ((f.read o cyc).1, (c.readHook w).withFlash (f.read o cyc).2) := by
  unfold Controller.read
  dsimp only
  split
  · exact .inl ⟨_, rfl⟩
  · unfold Controller.readResolved
    split
    · exact .inl ⟨_, rfl⟩
    · rename_i o hr
      unfold Controller.flashRead
      rw [(c.flash?_hooks w addr 0).1]
      cases hf : c.flash? with
      | none => exact .inl ⟨_, rfl⟩
      | some f => exact .inr ⟨o, f, hr, rfl, rfl⟩
    all_goals exact .inl ⟨_, rfl⟩

/-- Every outcome of a write through a window (R185, R343). -/
theorem Controller.write_cases (c : Controller) (w : Window) (addr : Addr) (b : Byte) (rmw : Bool) :
    (c.writeHook w addr b).configWrite? addr b = some (c.write w addr b rmw) ∨
    ((c.writeHook w addr b).configWrite? addr b = none ∧
      (c.write w addr b rmw = c.writeHook w addr b ∨
      (∃ buf o, (c.writeHook w addr b).resolve w addr .store = .ram buf o ∧
        c.write w addr b rmw = (c.writeHook w addr b).bufferWrite buf o b) ∨
      ∃ o f, (c.writeHook w addr b).resolve w addr .store = .flash o ∧ c.flash? = some f ∧
        (c.writeHook w addr b).writeProtected = false ∧
        c.write w addr b rmw = (c.writeHook w addr b).withFlash (f.store o b rmw))) := by
  unfold Controller.write
  dsimp only
  split
  · rename_i c' h
    exact .inl h
  · rename_i h
    refine .inr ⟨h, ?_⟩
    unfold Controller.writeResolved
    split
    · exact .inl rfl
    · rename_i o hr
      unfold Controller.flashStore
      rw [(c.flash?_hooks w addr b).2]
      cases hf : c.flash? with
      | none => exact .inl rfl
      | some f =>
        dsimp only
        split
        · exact .inl rfl
        · rename_i hp
          exact .inr (.inr ⟨o, f, hr, rfl, by simpa using hp, rfl⟩)
    · exact .inl rfl
    · rename_i buf o hr
      exact .inr (.inl ⟨buf, o, hr, rfl⟩)
    · exact .inl rfl

/-- An operation at an address of a window. -/
theorem onWindow_eq (s : State) (addr : Addr) (w : Window) (op : Window → Option Byte × Controller)
    (h : s.ctrl.window? addr = some w) : onWindow s addr op = .next (s.answer (op w).1 (op w).2) := by
  simp [onWindow, h]

/-- Every outcome of an operation at a CPU address. -/
theorem onWindow_cases (s : State) (addr : Addr) (op : Window → Option Byte × Controller) :
    (s.ctrl.window? addr = none ∧ onWindow s addr op = .refused .outsideWindows) ∨
    ∃ w, s.ctrl.window? addr = some w ∧ onWindow s addr op = .next (s.answer (op w).1 (op w).2) := by
  cases h : s.ctrl.window? addr with
  | none => exact .inl ⟨rfl, by simp [onWindow, h]⟩
  | some w => exact .inr ⟨w, rfl, onWindow_eq s addr w op h⟩

/-- An address in a window of the variant lies in that window, which the variant claims. -/
theorem Controller.window?_eq_some (c : Controller) (addr : Addr) (w : Window) :
    c.window? addr = some w ↔ windowOf addr = some w ∧ c.claims w = true := by
  unfold Controller.window?
  rw [Option.filter_eq_some_iff]

end Sys2Proof.Machine
end

