-- ==== Sys2Proof/Laws/Decode.lean ====
section
/-! SUPPORT. The laws of the fields of an encoded operation: each field reads back what was put into it. -/

namespace Sys2Proof

/-- The bytes of a field made of four bytes are those bytes. -/
theorem fieldBytes_fieldOfBytes (b0 b1 b2 b3 : Byte) : fieldBytes (fieldOfBytes b0 b1 b2 b3) = [b0, b1, b2, b3] := by
  simp only [fieldBytes, fieldOfBytes, List.cons.injEq, and_true]
  refine ⟨?_, ?_, ?_, ?_⟩ <;> (refine BitVec.eq_of_getLsbD_eq fun k hk => ?_) <;>
    simp only [BitVec.getLsbD_extractLsb', BitVec.getLsbD_append, hk, decide_true, Bool.true_and] <;>
    (repeat' split) <;> first | omega | (congr 1; omega)

/-- A field is made of its bytes. -/
theorem fieldOfBytes_extract (x : BitVec 32) : fieldOfBytes (x.extractLsb' 0 8) (x.extractLsb' 8 8)
    (x.extractLsb' 16 8) (x.extractLsb' 24 8) = x := by
  refine BitVec.eq_of_getLsbD_eq fun k hk => ?_
  have h0 : 24 ≤ k → k - 8 - 8 - 8 < 8 := by omega
  simp only [fieldOfBytes, BitVec.getLsbD_append, BitVec.getLsbD_extractLsb']
  repeat' split
  · simp [*]
  · simp only [*, decide_true, Bool.true_and]; congr 1; omega
  · simp only [*, decide_true, Bool.true_and]; congr 1; omega
  · simp only [h0 (by omega), decide_true, Bool.true_and]; congr 1; omega

/-- The address field holds the address. -/
theorem addrField_addr (addr : Addr) (data sel : Byte) (cyc : Cycle) (bus flags : Byte) :
    HostWord.addr ⟨data, sel, addrField addr, cyc, bus, flags⟩ = addr := by
  refine BitVec.eq_of_getLsbD_eq fun k hk => ?_
  have : k < 32 := by omega
  simp [HostWord.addr, addrField, hk, this]

/-- The flags of a write hold its read-modify-write input. -/
theorem rmwFlag_rmw (rmw : Bool) (data sel : Byte) (off : Offset) (cyc : Cycle) (bus : Byte) :
    HostWord.rmw ⟨data, sel, off, cyc, bus, rmwFlag rmw⟩ = rmw := by
  cases rmw <;> simp [HostWord.rmw, rmwFlag]

/-- The word of a register access reads back as that access, its selector and its address. -/
theorem accessWord_access (sel : Byte) (off : Offset) (acc : Access) :
    (accessWord sel off acc).access = acc ∧ (accessWord sel off acc).selector = sel ∧
    (accessWord sel off acc).off = off := by
  cases acc with
  | load busLast cyc => exact ⟨by simp [HostWord.access, accessWord], rfl, rfl⟩
  | store b rmw =>
    refine ⟨?_, rfl, rfl⟩
    cases rmw <;> simp [HostWord.access, accessWord, HostWord.rmw, rmwFlag]

/-- The flags of a reset hold its kind. -/
theorem kindFlag_kind (kind : ResetKind) (data sel : Byte) (off : Offset) (cyc : Cycle) (bus : Byte) :
    HostWord.kind ⟨data, sel, off, cyc, bus, kindFlag kind⟩ = kind := by
  cases kind <;> rfl

/-- The address in the word of a register access. -/
theorem accessWord_addr (sel : Byte) (addr : Addr) (acc : Access) :
    (accessWord sel (addrField addr) acc).addr = addr := by
  cases acc <;> exact addrField_addr ..

end Sys2Proof
end

