-- ==== Sys2Proof/Laws/PerInstr.lean ====
section
/-! SUPPORT. Statements for every operation, one lemma per constructor. RowRoundTrip: the row that the word of an
operation names is the operation, with every operand at every value (the operand and reserved-bit checks of the decoder
stand apart). -/

namespace Sys2Proof.Laws

/-- The row named by the word of an operation is that operation. -/
def RowRoundTrip.Statement (i : Instr) : Prop := decodeRow (encodeWord i) = .ok i

theorem RowRoundTrip.fReset : RowRoundTrip.Statement .fReset := rfl
theorem RowRoundTrip.fRead (a : Offset) (cyc : Cycle) : RowRoundTrip.Statement (.fRead a cyc) := rfl
theorem RowRoundTrip.fStore (a : Offset) (b : Byte) : RowRoundTrip.Statement (.fStore a b) := rfl
theorem RowRoundTrip.fStoreRmw (a : Offset) (b : Byte) : RowRoundTrip.Statement (.fStoreRmw a b) := rfl
theorem RowRoundTrip.fPeek (a : Offset) : RowRoundTrip.Statement (.fPeek a) := rfl
theorem RowRoundTrip.cRead (addr : Addr) (busLast : Byte) (cyc : Cycle)
    : RowRoundTrip.Statement (.cRead addr busLast cyc) := by
  unfold RowRoundTrip.Statement encodeWord decodeRow
  rw [addrField_addr]
  rfl
theorem RowRoundTrip.cWrite (addr : Addr) (b : Byte) (rmw : Bool) : RowRoundTrip.Statement (.cWrite addr b rmw) := by
  unfold RowRoundTrip.Statement encodeWord decodeRow
  rw [addrField_addr, rmwFlag_rmw]
  rfl
theorem RowRoundTrip.cConfigRead (addr : Addr) (busLast : Byte) (cyc : Cycle)
    : RowRoundTrip.Statement (.cConfigRead addr busLast cyc) := by
  unfold RowRoundTrip.Statement encodeWord decodeRow
  rw [addrField_addr]
  rfl
theorem RowRoundTrip.cConfigWrite (addr : Addr) (b : Byte) (rmw : Bool)
    : RowRoundTrip.Statement (.cConfigWrite addr b rmw) := by
  unfold RowRoundTrip.Statement encodeWord decodeRow
  rw [addrField_addr, rmwFlag_rmw]
  rfl
theorem RowRoundTrip.cReset (kind : ResetKind) : RowRoundTrip.Statement (.cReset kind) := by
  unfold RowRoundTrip.Statement encodeWord decodeRow
  rw [kindFlag_kind]
  rfl
theorem RowRoundTrip.unlock1 (a : Offset) : RowRoundTrip.Statement (.unlock1 a) := rfl
theorem RowRoundTrip.readIgnore (a : Offset) (b : Byte) : RowRoundTrip.Statement (.readIgnore a b) := rfl
theorem RowRoundTrip.unlock2 (a : Offset) : RowRoundTrip.Statement (.unlock2 a) := rfl
theorem RowRoundTrip.magic1Abort (a : Offset) (b : Byte) : RowRoundTrip.Statement (.magic1Abort a b) := rfl
theorem RowRoundTrip.autoselect (a : Offset) : RowRoundTrip.Statement (.autoselect a) := rfl
theorem RowRoundTrip.programSetup (a : Offset) : RowRoundTrip.Statement (.programSetup a) := rfl
theorem RowRoundTrip.eraseSetup (a : Offset) : RowRoundTrip.Statement (.eraseSetup a) := rfl
theorem RowRoundTrip.magic2Abort (a : Offset) (b : Byte) : RowRoundTrip.Statement (.magic2Abort a b) := rfl
theorem RowRoundTrip.programData (a : Offset) (b : Byte) : RowRoundTrip.Statement (.programData a b) := rfl
theorem RowRoundTrip.eraseUnlock1 (a : Offset) : RowRoundTrip.Statement (.eraseUnlock1 a) := rfl
theorem RowRoundTrip.eraseMagic1Abort (a : Offset) (b : Byte) : RowRoundTrip.Statement (.eraseMagic1Abort a b) := rfl
theorem RowRoundTrip.eraseUnlock2 (a : Offset) : RowRoundTrip.Statement (.eraseUnlock2 a) := rfl
theorem RowRoundTrip.eraseMagic2Abort (a : Offset) (b : Byte) : RowRoundTrip.Statement (.eraseMagic2Abort a b) := rfl
theorem RowRoundTrip.chipErase (a : Offset) : RowRoundTrip.Statement (.chipErase a) := rfl
theorem RowRoundTrip.sectorErase (a : Offset) : RowRoundTrip.Statement (.sectorErase a) := rfl
theorem RowRoundTrip.eraseSelectAbort (a : Offset) (b : Byte) : RowRoundTrip.Statement (.eraseSelectAbort a b) := rfl
theorem RowRoundTrip.eraseSuspend (a : Offset) : RowRoundTrip.Statement (.eraseSuspend a) := rfl
theorem RowRoundTrip.sectorEraseIgnore (a : Offset) (b : Byte) : RowRoundTrip.Statement (.sectorEraseIgnore a b) := rfl
theorem RowRoundTrip.eraseResume (a : Offset) : RowRoundTrip.Statement (.eraseResume a) := rfl
theorem RowRoundTrip.sectorEraseSuspendIgnore (a : Offset) (b : Byte)
    : RowRoundTrip.Statement (.sectorEraseSuspendIgnore a b) := rfl
theorem RowRoundTrip.resetCmdAutoselect (a : Offset) : RowRoundTrip.Statement (.resetCmdAutoselect a) := rfl
theorem RowRoundTrip.autoselectIgnore (a : Offset) (b : Byte) : RowRoundTrip.Statement (.autoselectIgnore a b) := rfl
theorem RowRoundTrip.resetCmdError (a : Offset) : RowRoundTrip.Statement (.resetCmdError a) := rfl
theorem RowRoundTrip.byteProgramErrorIgnore (a : Offset) (b : Byte)
    : RowRoundTrip.Statement (.byteProgramErrorIgnore a b) := rfl
theorem RowRoundTrip.byteProgramHappeningIgnore (a : Offset) (b : Byte)
    : RowRoundTrip.Statement (.byteProgramHappeningIgnore a b) := rfl
theorem RowRoundTrip.chipEraseIgnore (a : Offset) (b : Byte) : RowRoundTrip.Statement (.chipEraseIgnore a b) := rfl
theorem RowRoundTrip.umRegs0 (acc : Access) : RowRoundTrip.Statement (.umRegs0 acc) := by
  unfold RowRoundTrip.Statement encodeWord decodeRow
  rw [(accessWord_access _ _ acc).2.1, (accessWord_access _ _ acc).1]
  rfl
theorem RowRoundTrip.umRegs1 (acc : Access) : RowRoundTrip.Statement (.umRegs1 acc) := by
  unfold RowRoundTrip.Statement encodeWord decodeRow
  rw [(accessWord_access _ _ acc).2.1, (accessWord_access _ _ acc).1]
  rfl
theorem RowRoundTrip.umRegs2 (acc : Access) : RowRoundTrip.Statement (.umRegs2 acc) := by
  unfold RowRoundTrip.Statement encodeWord decodeRow
  rw [(accessWord_access _ _ acc).2.1, (accessWord_access _ _ acc).1]
  rfl
theorem RowRoundTrip.umRegs3 (acc : Access) : RowRoundTrip.Statement (.umRegs3 acc) := by
  unfold RowRoundTrip.Statement encodeWord decodeRow
  rw [(accessWord_access _ _ acc).2.1, (accessWord_access _ _ acc).1]
  rfl
theorem RowRoundTrip.umRegs4 (acc : Access) : RowRoundTrip.Statement (.umRegs4 acc) := by
  unfold RowRoundTrip.Statement encodeWord decodeRow
  rw [(accessWord_access _ _ acc).2.1, (accessWord_access _ _ acc).1]
  rfl
theorem RowRoundTrip.umRegs5 (acc : Access) : RowRoundTrip.Statement (.umRegs5 acc) := by
  unfold RowRoundTrip.Statement encodeWord decodeRow
  rw [(accessWord_access _ _ acc).2.1, (accessWord_access _ _ acc).1]
  rfl
theorem RowRoundTrip.umRegs6 (acc : Access) : RowRoundTrip.Statement (.umRegs6 acc) := by
  unfold RowRoundTrip.Statement encodeWord decodeRow
  rw [(accessWord_access _ _ acc).2.1, (accessWord_access _ _ acc).1]
  rfl
theorem RowRoundTrip.umRegs7 (acc : Access) : RowRoundTrip.Statement (.umRegs7 acc) := by
  unfold RowRoundTrip.Statement encodeWord decodeRow
  rw [(accessWord_access _ _ acc).2.1, (accessWord_access _ _ acc).1]
  rfl
theorem RowRoundTrip.umRegs8 (acc : Access) : RowRoundTrip.Statement (.umRegs8 acc) := by
  unfold RowRoundTrip.Statement encodeWord decodeRow
  rw [(accessWord_access _ _ acc).2.1, (accessWord_access _ _ acc).1]
  rfl
theorem RowRoundTrip.umRegs9 (acc : Access) : RowRoundTrip.Statement (.umRegs9 acc) := by
  unfold RowRoundTrip.Statement encodeWord decodeRow
  rw [(accessWord_access _ _ acc).2.1, (accessWord_access _ _ acc).1]
  rfl
theorem RowRoundTrip.umRegs10 (acc : Access) : RowRoundTrip.Statement (.umRegs10 acc) := by
  unfold RowRoundTrip.Statement encodeWord decodeRow
  rw [(accessWord_access _ _ acc).2.1, (accessWord_access _ _ acc).1]
  rfl
theorem RowRoundTrip.umRegs11 (acc : Access) : RowRoundTrip.Statement (.umRegs11 acc) := by
  unfold RowRoundTrip.Statement encodeWord decodeRow
  rw [(accessWord_access _ _ acc).2.1, (accessWord_access _ _ acc).1]
  rfl
theorem RowRoundTrip.umRegs12 (acc : Access) : RowRoundTrip.Statement (.umRegs12 acc) := by
  unfold RowRoundTrip.Statement encodeWord decodeRow
  rw [(accessWord_access _ _ acc).2.1, (accessWord_access _ _ acc).1]
  rfl
theorem RowRoundTrip.umRegs13 (acc : Access) : RowRoundTrip.Statement (.umRegs13 acc) := by
  unfold RowRoundTrip.Statement encodeWord decodeRow
  rw [(accessWord_access _ _ acc).2.1, (accessWord_access _ _ acc).1]
  rfl
theorem RowRoundTrip.umRegs14 (acc : Access) : RowRoundTrip.Statement (.umRegs14 acc) := by
  unfold RowRoundTrip.Statement encodeWord decodeRow
  rw [(accessWord_access _ _ acc).2.1, (accessWord_access _ _ acc).1]
  rfl
theorem RowRoundTrip.umRegs15 (acc : Access) : RowRoundTrip.Statement (.umRegs15 acc) := by
  unfold RowRoundTrip.Statement encodeWord decodeRow
  rw [(accessWord_access _ _ acc).2.1, (accessWord_access _ _ acc).1]
  rfl
theorem RowRoundTrip.feRegA (addr : Addr) (acc : Access) : RowRoundTrip.Statement (.feRegA addr acc) := by
  unfold RowRoundTrip.Statement encodeWord decodeRow
  rw [(accessWord_access _ _ acc).2.1, (accessWord_access _ _ acc).1, accessWord_addr]
  rfl
theorem RowRoundTrip.feRegB (addr : Addr) (acc : Access) : RowRoundTrip.Statement (.feRegB addr acc) := by
  unfold RowRoundTrip.Statement encodeWord decodeRow
  rw [(accessWord_access _ _ acc).2.1, (accessWord_access _ _ acc).1, accessWord_addr]
  rfl
theorem RowRoundTrip.mcBankLow (addr : Addr) (b : Byte) (rmw : Bool)
    : RowRoundTrip.Statement (.mcBankLow addr b rmw) := by
  unfold RowRoundTrip.Statement encodeWord decodeRow
  rw [addrField_addr, rmwFlag_rmw]
  rfl
theorem RowRoundTrip.mcBankHigh (addr : Addr) (b : Byte) (rmw : Bool)
    : RowRoundTrip.Statement (.mcBankHigh addr b rmw) := by
  unfold RowRoundTrip.Statement encodeWord decodeRow
  rw [addrField_addr, rmwFlag_rmw]
  rfl
theorem RowRoundTrip.mcControl (addr : Addr) (b : Byte) (rmw : Bool)
    : RowRoundTrip.Statement (.mcControl addr b rmw) := by
  unfold RowRoundTrip.Statement encodeWord decodeRow
  rw [addrField_addr, rmwFlag_rmw]
  rfl
theorem RowRoundTrip.vfpBankReg (addr : Addr) (acc : Access) : RowRoundTrip.Statement (.vfpBankReg addr acc) := by
  unfold RowRoundTrip.Statement encodeWord decodeRow
  rw [(accessWord_access _ _ acc).2.1, (accessWord_access _ _ acc).1, accessWord_addr]
  rfl
theorem RowRoundTrip.vfpCfgReg (addr : Addr) (acc : Access) : RowRoundTrip.Statement (.vfpCfgReg addr acc) := by
  unfold RowRoundTrip.Statement encodeWord decodeRow
  rw [(accessWord_access _ _ acc).2.1, (accessWord_access _ _ acc).1, accessWord_addr]
  rfl

end Sys2Proof.Laws
end

