-- ==== Sys2Proof/Laws/Registers.lean ====
section
/-! SUPPORT. The laws of register addresses and of the four shared register operations. -/

namespace Sys2Proof.Machine

/-! ## Register addresses -/

/-- The sixteen UltiMem register addresses, their numbers and their window (R211). -/
theorem umAddrOf_index (i : Fin 16) : umRegisterIndex (umAddrOf i) = i ∧ umRegisterAddr (umAddrOf i) = true ∧
    windowOf (umAddrOf i) = some .io3 ∧ umAddrOf i = BitVec.ofNat 16 (0x9FF0 + i.val) := by
  revert i
  decide

/-- Every address from 0x9FF0 to 0x9FFF is a register's (R211, R215). -/
theorem umAddrOf_surjective (addr : Addr) (h1 : 0x9FF0 ≤ addr.toNat) (h2 : addr.toNat ≤ 0x9FFF) :
    ∃ i : Fin 16, addr = umAddrOf i ∧ i.val = addr.toNat % 16 := by
  refine ⟨⟨addr.toNat % 16, by omega⟩, ?_, rfl⟩
  rw [(umAddrOf_index _).2.2.2]
  apply BitVec.eq_of_toNat_eq
  simp
  omega

/-- The register addresses of the Final Expansion (R244). -/
theorem feRegisterAt_io3 (addr : Addr) (h1 : 0x9C00 ≤ addr.toNat) (h2 : addr.toNat ≤ 0x9FFF) :
    (addr.toNat % 4 = 2 → feRegisterAt addr = some .a) ∧ (addr.toNat % 4 = 3 → feRegisterAt addr = some .b) ∧
    (addr.toNat % 4 < 2 → feRegisterAt addr = none) := by
  have hw : windowOf addr = some .io3 := (windowOf_iff addr).2.2.2.2.2.2.2 ⟨h1, h2⟩
  have h : (addr.extractLsb' 0 2).toNat = addr.toNat % 4 := by simp
  unfold feRegisterAt
  rw [if_pos hw, h]
  refine ⟨fun h => ?_, fun h => ?_, fun hlt => ?_⟩
  · rw [h]; rfl
  · rw [h]; rfl
  · split <;> first | omega | rfl

/-- The Final Expansion has no register outside IO3. -/
theorem windowOf_of_feRegisterAt (addr : Addr) (r : FeReg) (h : feRegisterAt addr = some r) :
    windowOf addr = some .io3 := by
  unfold feRegisterAt at h
  split at h
  · assumption
  · cases h

/-- The register addresses of the VIC Flash Plugin (R313). -/
theorem vfpRegisterAt_io2 (addr : Addr) (h1 : 0x9800 ≤ addr.toNat) (h2 : addr.toNat ≤ 0x9BFF) :
    (addr.toNat % 2 = 0 → vfpRegisterAt addr = some .bank) ∧ (addr.toNat % 2 = 1 → vfpRegisterAt addr = some .cfg) := by
  have hw : windowOf addr = some .io2 := (windowOf_iff addr).2.2.2.2.2.1.2 ⟨h1, h2⟩
  have h : addr.getLsbD 0 = decide (addr.toNat % 2 = 1) := by simp [BitVec.getLsbD, Nat.testBit_zero]
  unfold vfpRegisterAt
  rw [if_pos hw, h]
  exact ⟨fun h => by simp [h], fun h => by simp [h]⟩

/-- The VIC Flash Plugin has no register outside IO2. -/
theorem windowOf_of_vfpRegisterAt (addr : Addr) (r : VfpReg) (h : vfpRegisterAt addr = some r) :
    windowOf addr = some .io2 := by
  unfold vfpRegisterAt at h
  split at h
  · assumption
  · cases h

/-! ## The four shared register operations -/

/-- An access to an UltiMem register is the bus access at its address, visible or hidden. -/
theorem umRegister_eq_busAccess (i : Fin 16) (acc : Access) (s : State) :
    umRegister i acc s = busAccess (umAddrOf i) acc s := by
  unfold umRegister
  rcases hs : s.ctrl with u | _ | _ | _ <;> dsimp only
  obtain ⟨h1, h2, h3, -⟩ := umAddrOf_index i
  have hw : s.ctrl.window? (umAddrOf i) = some .io3 := by
    rw [Controller.window?_eq_some]
    exact ⟨h3, by rw [hs]; rfl⟩
  split
  · rfl
  · rename_i hl
    cases acc <;> dsimp only [busAccess, busRead, busWrite] <;> rw [onWindow_eq _ _ _ _ hw, hs] <;>
      simp [Controller.read, Controller.write, Controller.readHook, Controller.writeHook, Controller.configRead?,
        Controller.configWrite?, UltiMem.answersAsRegister, h2, h1, hl]

/-- An access to a Final Expansion register is the bus access at its address. -/
theorem feRegister_eq_busAccess (r : FeReg) (addr : Addr) (acc : Access) (s : State) :
    feRegister r addr acc s = busAccess addr acc s := by
  unfold feRegister
  rcases hs : s.ctrl with _ | e | _ | _ <;> dsimp only
  split
  · rename_i h
    have hw : s.ctrl.window? addr = some .io3 := by
      rw [Controller.window?_eq_some]
      exact ⟨windowOf_of_feRegisterAt _ _ h, by rw [hs]; rfl⟩
    cases acc <;> dsimp only [busAccess, busRead, busWrite] <;> rw [onWindow_eq _ _ _ _ hw, hs] <;>
      simp [Controller.read, Controller.write, Controller.readHook, Controller.writeHook, Controller.configRead?,
        Controller.configWrite?, FinalExpansion.hook, h]
  · rfl

/-- A MegaCart control row whose effect, where it is selected, is what the address bits decode to, is the bus write at
its address. -/
theorem mcControlRow_eq_busWrite (addr : Addr) (b : Byte) (rmw : Bool) (s : State) (selected : Bool)
    (effect : MegaCart → MegaCart) (h : ∀ m, selected = true → effect m = m.decodeControl addr b) :
    mcControlRow addr b rmw s selected effect = busWrite addr b rmw s := by
  unfold mcControlRow
  rcases hs : s.ctrl with _ | _ | m | _ <;> dsimp only
  split
  · rename_i hc
    have hw : s.ctrl.window? addr = some .io3 := by
      rw [Controller.window?_eq_some]
      exact ⟨hc.1, by rw [hs]; rfl⟩
    dsimp only [busWrite]
    rw [onWindow_eq _ _ _ _ hw, hs, h _ hc.2]
    simp [Controller.write, Controller.writeHook, Controller.configWrite?, hc.1, MegaCart.writeHook,
      MegaCart.controlWrite]
  · rfl

/-- An access to a VIC Flash Plugin register is the bus access at its address. -/
theorem vfpRegister_eq_busAccess (r : VfpReg) (addr : Addr) (acc : Access) (s : State) :
    vfpRegister r addr acc s = busAccess addr acc s := by
  unfold vfpRegister
  rcases hs : s.ctrl with _ | _ | _ | v <;> dsimp only
  split
  · rename_i h
    have hw : s.ctrl.window? addr = some .io2 := by
      rw [Controller.window?_eq_some]
      exact ⟨windowOf_of_vfpRegisterAt _ _ h, by rw [hs]; rfl⟩
    cases acc <;> dsimp only [busAccess, busRead, busWrite] <;> rw [onWindow_eq _ _ _ _ hw, hs] <;>
      simp [Controller.read, Controller.write, Controller.readHook, Controller.writeHook, Controller.configRead?,
        Controller.configWrite?, h]
  · rfl

end Sys2Proof.Machine
end

