-- ==== Sys2Proof/Tests/Slice0.lean ====
section
/-! SUPPORT. Tests: the well-formedness checks, the decoding of every operation from bytes written out by hand (the layout
of Decode.lean; the command bytes of 30_encoding R83), one-step tests whose expected results are the vectors of
95_test_vectors.md, and for every statement with hypotheses a state and operands that meet them. -/

namespace Sys2Proof.Tests

open Sys2Proof Sys2Proof.Machine

/-! ## Well-formedness: one ill-formed operation for each check -/

theorem test_wf_eraseSelectAbort : Instr.wellFormed (.eraseSelectAbort 0 0x30) = false := by decide
theorem test_wf_sectorEraseIgnore : Instr.wellFormed (.sectorEraseIgnore 0 0xB0) = false := by decide
theorem test_wf_sectorEraseSuspendIgnore : Instr.wellFormed (.sectorEraseSuspendIgnore 0 0x30) = false := by decide
theorem test_wf_autoselectIgnore : Instr.wellFormed (.autoselectIgnore 0 0xF0) = false := by decide
theorem test_wf_byteProgramErrorIgnore : Instr.wellFormed (.byteProgramErrorIgnore 0 0xF0) = false := by decide
theorem test_wf_feRegA_window : Instr.wellFormed (.feRegA 0x9BFE (.store 0 false)) = false := by decide
theorem test_wf_feRegA_bits : Instr.wellFormed (.feRegA 0x9C03 (.store 0 false)) = false := by decide
theorem test_wf_feRegB_window : Instr.wellFormed (.feRegB 0xA003 (.store 0 false)) = false := by decide
theorem test_wf_feRegB_bits : Instr.wellFormed (.feRegB 0x9C02 (.store 0 false)) = false := by decide
theorem test_wf_mcBankLow_window : Instr.wellFormed (.mcBankLow 0x9900 0 false) = false := by decide
theorem test_wf_mcBankLow_bit8 : Instr.wellFormed (.mcBankLow 0x9C80 0 false) = false := by decide
theorem test_wf_mcBankHigh_window : Instr.wellFormed (.mcBankHigh 0x9880 0 false) = false := by decide
theorem test_wf_mcBankHigh_bit7 : Instr.wellFormed (.mcBankHigh 0x9D00 0 false) = false := by decide
theorem test_wf_mcControl_window : Instr.wellFormed (.mcControl 0x9980 0 false) = false := by decide
theorem test_wf_mcControl_bit8 : Instr.wellFormed (.mcControl 0x9C80 0 false) = false := by decide
theorem test_wf_mcControl_bit7 : Instr.wellFormed (.mcControl 0x9D00 0 false) = false := by decide
theorem test_wf_vfpBankReg_window : Instr.wellFormed (.vfpBankReg 0x9C00 (.store 0 false)) = false := by decide
theorem test_wf_vfpBankReg_bit0 : Instr.wellFormed (.vfpBankReg 0x9801 (.store 0 false)) = false := by decide
theorem test_wf_vfpCfgReg_window : Instr.wellFormed (.vfpCfgReg 0x97FF (.store 0 false)) = false := by decide
theorem test_wf_vfpCfgReg_bit0 : Instr.wellFormed (.vfpCfgReg 0x9800 (.store 0 false)) = false := by decide

/-! ## Decoding: every operation from its bytes -/

/-- The operation the decoder reads from bytes, if any. -/
def operationOf (bs : List Byte) : Option Instr :=
  match decode bs with
  | .ok (i, []) => some i
  | _ => none

/-- Why the decoder refuses bytes, if it does. -/
def errorOf (bs : List Byte) : Option DecodeError :=
  match decode bs with
  | .ok _ => none
  | .error e => some e

theorem test_decode_fReset : operationOf [0x00, 0x01, 0x00, 0x00, 0x00, 0x00, 0x00, 0x00, 0x00, 0x00, 0x00, 0x00]
    = some .fReset := by decide
theorem test_decode_fRead : operationOf [0x00, 0x02, 0x56, 0x34, 0x12, 0x00, 0x02, 0x00, 0x01, 0x00, 0x00, 0x00]
    = some (.fRead 0x123456 0x10002) := by decide
theorem test_decode_fStore : operationOf [0x3C, 0x03, 0x56, 0x34, 0x12, 0x00, 0x00, 0x00, 0x00, 0x00, 0x00, 0x00]
    = some (.fStore 0x123456 0x3C) := by decide
theorem test_decode_fStoreRmw : operationOf [0x3C, 0x04, 0x56, 0x34, 0x12, 0x00, 0x00, 0x00, 0x00, 0x00, 0x00, 0x00]
    = some (.fStoreRmw 0x123456 0x3C) := by decide
theorem test_decode_fPeek : operationOf [0x00, 0x05, 0x56, 0x34, 0x12, 0x00, 0x00, 0x00, 0x00, 0x00, 0x00, 0x00]
    = some (.fPeek 0x123456) := by decide
theorem test_decode_cRead : operationOf [0x00, 0x06, 0xF1, 0x9F, 0x00, 0x00, 0x02, 0x00, 0x00, 0x00, 0x5A, 0x00]
    = some (.cRead 0x9FF1 0x5A 2) := by decide
theorem test_decode_cWrite : operationOf [0x41, 0x07, 0xF2, 0x9F, 0x00, 0x00, 0x00, 0x00, 0x00, 0x00, 0x00, 0x02]
    = some (.cWrite 0x9FF2 0x41 true) := by decide
theorem test_decode_cConfigRead : operationOf [0x00, 0x08, 0xF1, 0x9F, 0x00, 0x00, 0x02, 0x00, 0x00, 0x00, 0x5A, 0x00]
    = some (.cConfigRead 0x9FF1 0x5A 2) := by decide
theorem test_decode_cConfigWrite :
    operationOf [0x41, 0x09, 0xF2, 0x9F, 0x00, 0x00, 0x00, 0x00, 0x00, 0x00, 0x00, 0x02]
    = some (.cConfigWrite 0x9FF2 0x41 true) := by decide
theorem test_decode_cReset : operationOf [0x00, 0x0A, 0x00, 0x00, 0x00, 0x00, 0x00, 0x00, 0x00, 0x00, 0x00, 0x02]
    = some (.cReset .software) := by decide
theorem test_decode_unlock1 : operationOf [0xAA, 0x00, 0x56, 0x34, 0x12, 0x00, 0x00, 0x00, 0x00, 0x00, 0x00, 0x00]
    = some (.unlock1 0x123456) := by decide
theorem test_decode_readIgnore : operationOf [0x12, 0x0C, 0x56, 0x34, 0x12, 0x00, 0x00, 0x00, 0x00, 0x00, 0x00, 0x00]
    = some (.readIgnore 0x123456 0x12) := by decide
theorem test_decode_unlock2 : operationOf [0x55, 0x00, 0x56, 0x34, 0x12, 0x00, 0x00, 0x00, 0x00, 0x00, 0x00, 0x00]
    = some (.unlock2 0x123456) := by decide
theorem test_decode_magic1Abort : operationOf [0x12, 0x0E, 0x56, 0x34, 0x12, 0x00, 0x00, 0x00, 0x00, 0x00, 0x00, 0x00]
    = some (.magic1Abort 0x123456 0x12) := by decide
theorem test_decode_autoselect : operationOf [0x90, 0x00, 0x56, 0x34, 0x12, 0x00, 0x00, 0x00, 0x00, 0x00, 0x00, 0x00]
    = some (.autoselect 0x123456) := by decide
theorem test_decode_programSetup :
    operationOf [0xA0, 0x00, 0x56, 0x34, 0x12, 0x00, 0x00, 0x00, 0x00, 0x00, 0x00, 0x00]
    = some (.programSetup 0x123456) := by decide
theorem test_decode_eraseSetup : operationOf [0x80, 0x00, 0x56, 0x34, 0x12, 0x00, 0x00, 0x00, 0x00, 0x00, 0x00, 0x00]
    = some (.eraseSetup 0x123456) := by decide
theorem test_decode_magic2Abort : operationOf [0x12, 0x12, 0x56, 0x34, 0x12, 0x00, 0x00, 0x00, 0x00, 0x00, 0x00, 0x00]
    = some (.magic2Abort 0x123456 0x12) := by decide
theorem test_decode_programData : operationOf [0x12, 0x13, 0x56, 0x34, 0x12, 0x00, 0x00, 0x00, 0x00, 0x00, 0x00, 0x00]
    = some (.programData 0x123456 0x12) := by decide
theorem test_decode_eraseUnlock1 :
    operationOf [0xAA, 0x14, 0x56, 0x34, 0x12, 0x00, 0x00, 0x00, 0x00, 0x00, 0x00, 0x00]
    = some (.eraseUnlock1 0x123456) := by decide
theorem test_decode_eraseMagic1Abort :
    operationOf [0x12, 0x15, 0x56, 0x34, 0x12, 0x00, 0x00, 0x00, 0x00, 0x00, 0x00, 0x00]
    = some (.eraseMagic1Abort 0x123456 0x12) := by decide
theorem test_decode_eraseUnlock2 :
    operationOf [0x55, 0x16, 0x56, 0x34, 0x12, 0x00, 0x00, 0x00, 0x00, 0x00, 0x00, 0x00]
    = some (.eraseUnlock2 0x123456) := by decide
theorem test_decode_eraseMagic2Abort :
    operationOf [0x12, 0x17, 0x56, 0x34, 0x12, 0x00, 0x00, 0x00, 0x00, 0x00, 0x00, 0x00]
    = some (.eraseMagic2Abort 0x123456 0x12) := by decide
theorem test_decode_chipErase : operationOf [0x10, 0x00, 0x56, 0x34, 0x12, 0x00, 0x00, 0x00, 0x00, 0x00, 0x00, 0x00]
    = some (.chipErase 0x123456) := by decide
theorem test_decode_sectorErase : operationOf [0x30, 0x00, 0x56, 0x34, 0x12, 0x00, 0x00, 0x00, 0x00, 0x00, 0x00, 0x00]
    = some (.sectorErase 0x123456) := by decide
theorem test_decode_eraseSelectAbort :
    operationOf [0x12, 0x1A, 0x56, 0x34, 0x12, 0x00, 0x00, 0x00, 0x00, 0x00, 0x00, 0x00]
    = some (.eraseSelectAbort 0x123456 0x12) := by decide
theorem test_decode_eraseSuspend :
    operationOf [0xB0, 0x00, 0x56, 0x34, 0x12, 0x00, 0x00, 0x00, 0x00, 0x00, 0x00, 0x00]
    = some (.eraseSuspend 0x123456) := by decide
theorem test_decode_sectorEraseIgnore :
    operationOf [0x12, 0x1C, 0x56, 0x34, 0x12, 0x00, 0x00, 0x00, 0x00, 0x00, 0x00, 0x00]
    = some (.sectorEraseIgnore 0x123456 0x12) := by decide
theorem test_decode_eraseResume : operationOf [0x30, 0x1D, 0x56, 0x34, 0x12, 0x00, 0x00, 0x00, 0x00, 0x00, 0x00, 0x00]
    = some (.eraseResume 0x123456) := by decide
theorem test_decode_sectorEraseSuspendIgnore :
    operationOf [0x12, 0x1E, 0x56, 0x34, 0x12, 0x00, 0x00, 0x00, 0x00, 0x00, 0x00, 0x00]
    = some (.sectorEraseSuspendIgnore 0x123456 0x12) := by decide
theorem test_decode_resetCmdAutoselect :
    operationOf [0xF0, 0x00, 0x56, 0x34, 0x12, 0x00, 0x00, 0x00, 0x00, 0x00, 0x00, 0x00]
    = some (.resetCmdAutoselect 0x123456) := by decide
theorem test_decode_autoselectIgnore :
    operationOf [0x12, 0x20, 0x56, 0x34, 0x12, 0x00, 0x00, 0x00, 0x00, 0x00, 0x00, 0x00]
    = some (.autoselectIgnore 0x123456 0x12) := by decide
theorem test_decode_resetCmdError :
    operationOf [0xF0, 0x21, 0x56, 0x34, 0x12, 0x00, 0x00, 0x00, 0x00, 0x00, 0x00, 0x00]
    = some (.resetCmdError 0x123456) := by decide
theorem test_decode_byteProgramErrorIgnore :
    operationOf [0x12, 0x22, 0x56, 0x34, 0x12, 0x00, 0x00, 0x00, 0x00, 0x00, 0x00, 0x00]
    = some (.byteProgramErrorIgnore 0x123456 0x12) := by decide
theorem test_decode_byteProgramHappeningIgnore :
    operationOf [0x12, 0x23, 0x56, 0x34, 0x12, 0x00, 0x00, 0x00, 0x00, 0x00, 0x00, 0x00]
    = some (.byteProgramHappeningIgnore 0x123456 0x12) := by decide
theorem test_decode_chipEraseIgnore :
    operationOf [0x12, 0x24, 0x56, 0x34, 0x12, 0x00, 0x00, 0x00, 0x00, 0x00, 0x00, 0x00]
    = some (.chipEraseIgnore 0x123456 0x12) := by decide
theorem test_decode_umRegs0 : operationOf [0x83, 0x25, 0xF0, 0x9F, 0x00, 0x00, 0x00, 0x00, 0x00, 0x00, 0x00, 0x01]
    = some (.umRegs0 (.store 0x83 false)) := by decide
theorem test_decode_umRegs1 : operationOf [0x00, 0x26, 0xF1, 0x9F, 0x00, 0x00, 0x07, 0x00, 0x00, 0x00, 0x5A, 0x00]
    = some (.umRegs1 (.load 0x5A 7)) := by decide
theorem test_decode_umRegs2 : operationOf [0x83, 0x27, 0xF2, 0x9F, 0x00, 0x00, 0x00, 0x00, 0x00, 0x00, 0x00, 0x01]
    = some (.umRegs2 (.store 0x83 false)) := by decide
theorem test_decode_umRegs3 : operationOf [0x00, 0x28, 0xF3, 0x9F, 0x00, 0x00, 0x07, 0x00, 0x00, 0x00, 0x5A, 0x00]
    = some (.umRegs3 (.load 0x5A 7)) := by decide
theorem test_decode_umRegs4 : operationOf [0x83, 0x29, 0xF4, 0x9F, 0x00, 0x00, 0x00, 0x00, 0x00, 0x00, 0x00, 0x01]
    = some (.umRegs4 (.store 0x83 false)) := by decide
theorem test_decode_umRegs5 : operationOf [0x00, 0x2A, 0xF5, 0x9F, 0x00, 0x00, 0x07, 0x00, 0x00, 0x00, 0x5A, 0x00]
    = some (.umRegs5 (.load 0x5A 7)) := by decide
theorem test_decode_umRegs6 : operationOf [0x83, 0x2B, 0xF6, 0x9F, 0x00, 0x00, 0x00, 0x00, 0x00, 0x00, 0x00, 0x01]
    = some (.umRegs6 (.store 0x83 false)) := by decide
theorem test_decode_umRegs7 : operationOf [0x00, 0x2C, 0xF7, 0x9F, 0x00, 0x00, 0x07, 0x00, 0x00, 0x00, 0x5A, 0x00]
    = some (.umRegs7 (.load 0x5A 7)) := by decide
theorem test_decode_umRegs8 : operationOf [0x83, 0x2D, 0xF8, 0x9F, 0x00, 0x00, 0x00, 0x00, 0x00, 0x00, 0x00, 0x01]
    = some (.umRegs8 (.store 0x83 false)) := by decide
theorem test_decode_umRegs9 : operationOf [0x00, 0x2E, 0xF9, 0x9F, 0x00, 0x00, 0x07, 0x00, 0x00, 0x00, 0x5A, 0x00]
    = some (.umRegs9 (.load 0x5A 7)) := by decide
theorem test_decode_umRegs10 : operationOf [0x83, 0x2F, 0xFA, 0x9F, 0x00, 0x00, 0x00, 0x00, 0x00, 0x00, 0x00, 0x01]
    = some (.umRegs10 (.store 0x83 false)) := by decide
theorem test_decode_umRegs11 : operationOf [0x00, 0x30, 0xFB, 0x9F, 0x00, 0x00, 0x07, 0x00, 0x00, 0x00, 0x5A, 0x00]
    = some (.umRegs11 (.load 0x5A 7)) := by decide
theorem test_decode_umRegs12 : operationOf [0x83, 0x31, 0xFC, 0x9F, 0x00, 0x00, 0x00, 0x00, 0x00, 0x00, 0x00, 0x01]
    = some (.umRegs12 (.store 0x83 false)) := by decide
theorem test_decode_umRegs13 : operationOf [0x00, 0x32, 0xFD, 0x9F, 0x00, 0x00, 0x07, 0x00, 0x00, 0x00, 0x5A, 0x00]
    = some (.umRegs13 (.load 0x5A 7)) := by decide
theorem test_decode_umRegs14 : operationOf [0x83, 0x33, 0xFE, 0x9F, 0x00, 0x00, 0x00, 0x00, 0x00, 0x00, 0x00, 0x01]
    = some (.umRegs14 (.store 0x83 false)) := by decide
theorem test_decode_umRegs15 : operationOf [0x00, 0x34, 0xFF, 0x9F, 0x00, 0x00, 0x07, 0x00, 0x00, 0x00, 0x5A, 0x00]
    = some (.umRegs15 (.load 0x5A 7)) := by decide
theorem test_decode_feRegA : operationOf [0xAA, 0x35, 0x02, 0x9C, 0x00, 0x00, 0x00, 0x00, 0x00, 0x00, 0x00, 0x01]
    = some (.feRegA 0x9C02 (.store 0xAA false)) := by decide
theorem test_decode_feRegB : operationOf [0x00, 0x36, 0xFF, 0x9F, 0x00, 0x00, 0x00, 0x00, 0x00, 0x00, 0x31, 0x00]
    = some (.feRegB 0x9FFF (.load 0x31 0)) := by decide
theorem test_decode_mcBankLow : operationOf [0x03, 0x37, 0x00, 0x9D, 0x00, 0x00, 0x00, 0x00, 0x00, 0x00, 0x00, 0x00]
    = some (.mcBankLow 0x9D00 0x03 false) := by decide
theorem test_decode_mcBankHigh : operationOf [0x05, 0x38, 0x80, 0x9C, 0x00, 0x00, 0x00, 0x00, 0x00, 0x00, 0x00, 0x02]
    = some (.mcBankHigh 0x9C80 0x05 true) := by decide
theorem test_decode_mcControl : operationOf [0x01, 0x39, 0x80, 0x9F, 0x00, 0x00, 0x00, 0x00, 0x00, 0x00, 0x00, 0x00]
    = some (.mcControl 0x9F80 0x01 false) := by decide
theorem test_decode_vfpBankReg : operationOf [0x12, 0x3A, 0xFE, 0x9B, 0x00, 0x00, 0x00, 0x00, 0x00, 0x00, 0x00, 0x03]
    = some (.vfpBankReg 0x9BFE (.store 0x12 true)) := by decide
theorem test_decode_vfpCfgReg : operationOf [0x00, 0x3B, 0x01, 0x98, 0x00, 0x00, 0x00, 0x00, 0x00, 0x00, 0x33, 0x00]
    = some (.vfpCfgReg 0x9801 (.load 0x33 0)) := by decide

/-! ## Decoding: bytes that are no operation -/

theorem test_refuse_truncated : errorOf [0x00, 0x01, 0x00, 0x00, 0x00, 0x00, 0x00, 0x00, 0x00, 0x00, 0x00]
    = some .truncated := by decide
theorem test_refuse_command_byte : errorOf [0x12, 0x00, 0x00, 0x00, 0x00, 0x00, 0x00, 0x00, 0x00, 0x00, 0x00, 0x00]
    = some .notACommandByte := by decide
theorem test_refuse_selector_11 : errorOf [0xAA, 0x0B, 0x00, 0x00, 0x00, 0x00, 0x00, 0x00, 0x00, 0x00, 0x00, 0x00]
    = some .reservedSelector := by decide
theorem test_refuse_selector_60 : errorOf [0x00, 0x3C, 0x00, 0x00, 0x00, 0x00, 0x00, 0x00, 0x00, 0x00, 0x00, 0x00]
    = some .reservedSelector := by decide
theorem test_refuse_unused_operand : errorOf [0x00, 0x01, 0x01, 0x00, 0x00, 0x00, 0x00, 0x00, 0x00, 0x00, 0x00, 0x00]
    = some .reservedOperandBits := by decide
theorem test_refuse_reset_kind_3 : errorOf [0x00, 0x0A, 0x00, 0x00, 0x00, 0x00, 0x00, 0x00, 0x00, 0x00, 0x00, 0x03]
    = some .reservedOperandBits := by decide
theorem test_refuse_address_high_half : errorOf [0x00, 0x06, 0x00, 0xA0, 0x01, 0x00, 0x00, 0x00, 0x00, 0x00, 0x00, 0x00]
    = some .reservedOperandBits := by decide
theorem test_refuse_wrong_register : errorOf [0x00, 0x25, 0xF1, 0x9F, 0x00, 0x00, 0x00, 0x00, 0x00, 0x00, 0x00, 0x00]
    = some .reservedOperandBits := by decide
theorem test_refuse_ill_formed : errorOf [0x30, 0x1A, 0x00, 0x00, 0x00, 0x00, 0x00, 0x00, 0x00, 0x00, 0x00, 0x00]
    = some .illFormed := by decide

/-! ## One step (95_test_vectors.md; scheme A, 512 KiB, in a Final Expansion unless said) -/

/-- A scheme A chip in a sequencer state, with listed bytes and latches. -/
def chipA (q : SeqState) (cells : Memory) (lastProgrammed lastRead : Byte) : FlashChip :=
  ⟨Config.feGeometry, q, cells, lastProgrammed, lastRead, false⟩

/-- A Final Expansion with given registers and chip. -/
def fe (regA regB : Byte) (lockBit : Bool) (f : FlashChip) : State :=
  ⟨.finalExpansion ⟨regA, regB, lockBit, ⟨19, []⟩, f, .standard⟩, [], none, .host⟩

/-- A chip in a sequencer state, blank, in a Final Expansion. -/
def blank (q : SeqState) : State := fe 0 0 true (chipA q [] 0 0)

/-- The thirteen states of the sequencer. -/
def allStates : List SeqState :=
  [.read, .magic1, .magic2, .autoselect, .byteProgram, .byteProgramHappening, .byteProgramError, .eraseMagic1,
   .eraseMagic2, .eraseSelect, .chipErase, .sectorErase, .sectorEraseSuspend]

/-- A MegaCart with given registers. -/
def mc (bankLow bankHigh : Byte) (outputEnable nvramEnable : Bool) (rom : Memory) : State :=
  ⟨.megaCart ⟨bankLow, bankHigh, outputEnable, nvramEnable, ⟨15, []⟩, ⟨13, [(0x1800, 0xC3)]⟩, ⟨21, rom⟩⟩, [], none, .host⟩

/-- A VIC Flash Plugin with given registers. -/
def vfp (bankReg cfgReg : Byte) (cells : Memory) : State :=
  ⟨.vicFlash ⟨bankReg, cfgReg, !cfgReg.getLsbD 7, ⟨15, []⟩, ⟨Config.vfpGeometry, .read, cells, 0, 0, false⟩⟩, [], none,
    .host⟩

/-- An UltiMem with one register changed after reset. -/
def um (i : Fin 16) (b : Byte) (cells : Memory) : State :=
  ⟨.ultiMem ⟨Config.umResetRegs.set i b, ⟨20, []⟩, ⟨Config.umGeometry, .read, cells, 0, 0, false⟩, Config.umParams⟩,
    [], none, .host⟩

/-- What an operation leaves of the chip: state, the byte at an address, and the two latches. -/
def chipAfter (r : Result) (o : Nat) : Option (SeqState × Byte × Byte × Byte) :=
  match r with
  | .next t => t.ctrl.flash?.map fun f => (f.state, f.byteAt o, f.lastProgrammed, f.lastRead)
  | _ => none

/-- The byte an operation returned. -/
def byteAfter (r : Result) : Option Byte :=
  match r with
  | .next t => t.dataOut
  | _ => none

/-- A byte of a buffer after an operation. -/
def bufferAfter (r : Result) (buf : BufferName) (o : Nat) : Option Byte :=
  match r with
  | .next t => some (t.ctrl.bufferByte buf o)
  | _ => none

/-- The four registers and flip-flops of a MegaCart after an operation. -/
def mcAfter : Result → Option (Byte × Byte × Bool × Bool)
  | .next ⟨.megaCart m, _, _, _⟩ => some (m.bankLow, m.bankHigh, m.outputEnable, m.nvramEnable)
  | _ => none

/-- The registers and the lock bit of a Final Expansion after an operation. -/
def feAfter : Result → Option (Byte × Byte × Bool)
  | .next ⟨.finalExpansion e, _, _, _⟩ => some (e.regA, e.regB, e.lockBit)
  | _ => none

/-- The registers and the latch of a VIC Flash Plugin after an operation. -/
def vfpAfter : Result → Option (Byte × Byte × Bool)
  | .next ⟨.vicFlash v, _, _, _⟩ => some (v.bankReg, v.cfgReg, v.cfgEn)
  | _ => none

/-- The registers of an UltiMem after an operation. -/
def umAfter : Result → Option (Vector Byte 16)
  | .next ⟨.ultiMem u, _, _, _⟩ => some u.regs
  | _ => none

/-- Why an operation is refused, if it is. -/
def refusalOf : Result → Option Refusal
  | .refused r => some r
  | _ => none

/-- Whether the controller an operation leaves has a property. -/
def ctrlAfter (r : Result) (p : Controller → Bool) : Bool :=
  match r with
  | .next t => p t.ctrl
  | _ => false

/-- V11 1 and 3. -/
theorem test_fReset :
    chipAfter (exec (.fReset) (fe 0 0 true (chipA .eraseSelect [(7, 0x11)] 0x3C 0x5A))) 7 =
      some (.read, 0x11, 0x3C, 0x5A) := by decide
/-- V2 11 and 15. -/
theorem test_fRead_id :
    byteAfter (exec (.fRead 0x12301 0) (blank .autoselect)) = some 0xA4 := by decide
/-- V2 20. -/
theorem test_fRead_status :
    byteAfter (exec (.fRead 0x1234 2) (fe 0 0 true (chipA .byteProgramError [] 0x3C 0))) = some 0xE0 := by decide
/-- V2 7. -/
theorem test_fRead_demotes :
    chipAfter (exec (.fRead 0x1234 0) (fe 0 0 true (chipA .byteProgramHappening [(0x1234, 0x5A)] 0x5A 0))) 0x1234 =
      some (.read, 0x5A, 0x5A, 0x5A) := by decide
/-- V1 2: bits above 14 are ignored. -/
theorem test_fStore :
    chipAfter (exec (.fStore 0xD555 0xAA) (blank .read)) 0 = some (.magic1, 0xFF, 0, 0) := by decide
/-- V5 5: the stale byte sets up, the real byte is programmed. -/
theorem test_fStoreRmw_unlock :
    chipAfter (exec (.fStoreRmw 0x5555 0x12) (fe 0 0 true (chipA .magic2 [] 0 0xA0))) 0x5555 =
      some (.byteProgramHappening, 0x12, 0x12, 0xA0) := by decide
/-- V5 7: the stale byte is programmed and fails, the real one resets. -/
theorem test_fStoreRmw_program :
    chipAfter (exec (.fStoreRmw 0x100 0xF0) (fe 0 0 true (chipA .byteProgram [(0x100, 0xF0)] 0 0x0F))) 0x100 =
      some (.read, 0x00, 0x0F, 0x0F) := by decide
/-- V2 18: the array, not an ID. -/
theorem test_fPeek :
    byteAfter (exec (.fPeek 0) (fe 0 0 true (chipA .autoselect [(0, 0x42)] 0 0))) = some 0x42 := by decide
/-- V1 1. -/
theorem test_unlock1 :
    chipAfter (exec (.unlock1 0x5555) (blank .read)) 0 = some (.magic1, 0xFF, 0, 0) := by decide
/-- V1 13: a repeated UNLOCK1 aborts. -/
theorem test_unlock1_other_row :
    chipAfter (exec (.unlock1 0x5555) (blank .magic1)) 0 = some (.read, 0xFF, 0, 0) := by decide
/-- V1 6. -/
theorem test_readIgnore :
    chipAfter (exec (.readIgnore 0x2AAA 0xAA) (blank .read)) 0 = some (.read, 0xFF, 0, 0) := by decide
/-- V1 10. -/
theorem test_unlock2 :
    chipAfter (exec (.unlock2 0xAAAA) (blank .magic1)) 0 = some (.magic2, 0xFF, 0, 0) := by decide
/-- V1 11. -/
theorem test_magic1Abort :
    chipAfter (exec (.magic1Abort 0x5555 0x55) (blank .magic1)) 0 = some (.read, 0xFF, 0, 0) := by decide
/-- V1 15. -/
theorem test_autoselect :
    chipAfter (exec (.autoselect 0x5555) (blank .magic2)) 0 = some (.autoselect, 0xFF, 0, 0) := by decide
/-- V1 18. -/
theorem test_autoselect_wrong_class :
    chipAfter (exec (.autoselect 0x2AAA) (blank .magic2)) 0 = some (.read, 0xFF, 0, 0) := by decide
/-- V1 16. -/
theorem test_programSetup :
    chipAfter (exec (.programSetup 0x5555) (blank .magic2)) 0 = some (.byteProgram, 0xFF, 0, 0) := by decide
/-- V1 17. -/
theorem test_eraseSetup :
    chipAfter (exec (.eraseSetup 0x5555) (blank .magic2)) 0 = some (.eraseMagic1, 0xFF, 0, 0) := by decide
/-- V1 20. -/
theorem test_magic2Abort :
    chipAfter (exec (.magic2Abort 0x5555 0xF0) (blank .magic2)) 0 = some (.read, 0xFF, 0, 0) := by decide
/-- V1 29. -/
theorem test_eraseUnlock1 :
    chipAfter (exec (.eraseUnlock1 0x5555) (blank .eraseMagic1)) 0 = some (.eraseMagic2, 0xFF, 0, 0) := by decide
/-- V1 31. -/
theorem test_eraseMagic1Abort :
    chipAfter (exec (.eraseMagic1Abort 0x2AAA 0xAA) (blank .eraseMagic1)) 0 = some (.read, 0xFF, 0, 0) := by decide
/-- V1 32. -/
theorem test_eraseUnlock2 :
    chipAfter (exec (.eraseUnlock2 0x2AAA) (blank .eraseMagic2)) 0 = some (.eraseSelect, 0xFF, 0, 0) := by decide
/-- V1 34. -/
theorem test_eraseMagic2Abort :
    chipAfter (exec (.eraseMagic2Abort 0x2AAA 0x30) (blank .eraseMagic2)) 0 = some (.read, 0xFF, 0, 0) := by decide
/-- V1 36. -/
theorem test_eraseSelectAbort :
    chipAfter (exec (.eraseSelectAbort 0 0x10) (blank .eraseSelect)) 0 = some (.read, 0xFF, 0, 0) := by decide
/-- V1 41. -/
theorem test_eraseSuspend :
    chipAfter (exec (.eraseSuspend 0) (blank .sectorErase)) 0 = some (.sectorEraseSuspend, 0xFF, 0, 0) := by decide
/-- V1 42. -/
theorem test_sectorEraseIgnore :
    chipAfter (exec (.sectorEraseIgnore 0x40000 0x30) (blank .sectorErase)) 0 =
      some (.sectorErase, 0xFF, 0, 0) := by decide
/-- V1 45. -/
theorem test_eraseResume :
    chipAfter (exec (.eraseResume 0) (blank .sectorEraseSuspend)) 0 = some (.sectorErase, 0xFF, 0, 0) := by decide
/-- V1 46. -/
theorem test_sectorEraseSuspendIgnore :
    chipAfter (exec (.sectorEraseSuspendIgnore 0 0xF0) (blank .sectorEraseSuspend)) 0 =
      some (.sectorEraseSuspend, 0xFF, 0, 0) := by decide
/-- V1 49. -/
theorem test_resetCmdAutoselect :
    chipAfter (exec (.resetCmdAutoselect 0x12345) (blank .autoselect)) 0 = some (.read, 0xFF, 0, 0) := by decide
/-- V1 50. -/
theorem test_autoselectIgnore :
    chipAfter (exec (.autoselectIgnore 0x5555 0xAA) (blank .autoselect)) 0 =
      some (.autoselect, 0xFF, 0, 0) := by decide
/-- V1 52. -/
theorem test_resetCmdError :
    chipAfter (exec (.resetCmdError 0) (blank .byteProgramError)) 0 = some (.read, 0xFF, 0, 0) := by decide
/-- V1 53. -/
theorem test_byteProgramErrorIgnore :
    chipAfter (exec (.byteProgramErrorIgnore 0x5555 0xAA) (blank .byteProgramError)) 0 =
      some (.byteProgramError, 0xFF, 0, 0) := by decide
/-- V1 55. -/
theorem test_byteProgramHappeningIgnore :
    chipAfter (exec (.byteProgramHappeningIgnore 0 0xF0) (blank .byteProgramHappening)) 0 =
      some (.byteProgramHappening, 0xFF, 0, 0) := by decide
/-- V1 57. -/
theorem test_chipEraseIgnore :
    chipAfter (exec (.chipEraseIgnore 0 0xF0) (blank .chipErase)) 0 = some (.chipErase, 0xFF, 0, 0) := by decide
/-- V1 23. -/
theorem test_programData :
    chipAfter (exec (.programData 0x100 0x3C) (blank .byteProgram)) 0x100 =
      some (.byteProgramHappening, 0x3C, 0x3C, 0) := by decide
/-- V1 24. -/
theorem test_programData_fails :
    chipAfter (exec (.programData 0x100 0x3C) (fe 0 0 true (chipA .byteProgram [(0x100, 0xF0)] 0 0))) 0x100 =
      some (.byteProgramError, 0x30, 0x3C, 0) := by decide
/-- V1 35. -/
theorem test_chipErase :
    chipAfter (exec (.chipErase 0x5555) (fe 0 0 true (chipA .eraseSelect [(0x7FFFF, 0x00)] 0 0))) 0x7FFFF =
      some (.chipErase, 0xFF, 0, 0) := by decide
/-- V1 37, S3: inside the sector. -/
theorem test_sectorErase :
    chipAfter (exec (.sectorErase 0x2ABCD) (fe 0 0 true (chipA .eraseSelect [(0x20000, 0x00)] 0 0))) 0x20000 =
      some (.sectorErase, 0xFF, 0, 0) := by decide
/-- V1 37, S3: the sector above. -/
theorem test_sectorErase_frame :
    chipAfter (exec (.sectorErase 0x2ABCD) (fe 0 0 true (chipA .eraseSelect [(0x30000, 0x00)] 0 0))) 0x30000 =
      some (.sectorErase, 0x00, 0, 0) := by decide
/-- V9 1: fixed banks. -/
theorem test_cRead_rom :
    byteAfter (exec (.cRead 0x7FFF 0x99 0) (mc 5 9 false true [(0xFFFFF, 0x42)])) = some 0x42 := by decide
/-- V8 20: A13 inverted. -/
theorem test_cRead_lineInversion :
    byteAfter (exec (.cRead 0x2000 0x99 0) (fe 0x20 0x20 false (chipA .read [(0x2000, 0x42)] 0 0))) =
      some 0x42 := by decide
/-- V9 4. -/
theorem test_cWrite_ram :
    bufferAfter (exec (.cWrite 0x7FFF 0x22 false) (mc 0x80 0xC0 true true [])) .ram 0x5FFF = some 0x22 := by decide
/-- V8 9: the store goes one bank up. -/
theorem test_cWrite_superRom :
    bufferAfter (exec (.cWrite 0x2000 0x22 false) (fe 0x44 0 false (chipA .read [] 0 0))) .ram 0x28000 =
      some 0x22 := by decide
/-- V10 1. -/
theorem test_cConfigRead :
    byteAfter (exec (.cConfigRead 0x9BFF 0x99 0) (vfp 0x00 0x40 [])) = some 0x40 := by decide
/-- V8 24: dropped while locked. -/
theorem test_cConfigWrite :
    feAfter (exec (.cConfigWrite 0x9C02 0x00 false) (fe 0x20 0x80 false (chipA .read [] 0 0))) =
      some (0x20, 0x80, false) := by decide
/-- V9 17 and 15: by kind. -/
theorem test_cReset_megaCart :
    mcAfter (exec (.cReset .hardware) (mc 5 9 true false [])) = some (0, 0, false, true) ∧
    mcAfter (exec (.cReset .software) (mc 5 9 false false [])) = some (5, 9, true, false) := by decide
/-- R354, R365, R370: at power-on `dirty` and the last-read latch take their power-on values, at any other kind they stay;
the array and the last-programmed latch stay at every kind (R12, R13). -/
theorem test_cReset_flash :
    let s := fe 0x20 0x80 false { chipA .autoselect [(7, 0x11)] 0x3C 0x5A with dirty := true }
    ctrlAfter (exec (.cReset .powerOn) s) (·.flash? = some { chipA .read [(7, 0x11)] 0x3C 0 with dirty := false }) = true ∧
    ctrlAfter (exec (.cReset .hardware) s)
      (·.flash? = some { chipA .read [(7, 0x11)] 0x3C 0x5A with dirty := true }) = true := by decide
/-- V7 5 to 8, R214: the hard-wired bits of all sixteen registers. -/
theorem test_umRegs_store : ∀ p ∈ umRows,
    (umAfter (exec (p.2 (.store 0xFF false)) State.reset)).map (·.get p.1) =
      some (Config.umMasks.get p.1) := by decide
/-- V7 1: the registers after reset, `regs[2] = 0x40`, the others 0. -/
theorem test_umRegs_load : ∀ p ∈ umRows,
    byteAfter (exec (p.2 (.load 0x99 0)) State.reset) = some (if p.1 = 2 then 0x40 else 0x00) := by decide
/-- V7 14: registers invisible, IO3 disabled. -/
theorem test_umRegs_hidden :
    byteAfter (exec (.umRegs2 (.load 0x5C 0)) (um 0 0x80 [])) = some 0x5C := by decide
/-- V8 26. -/
theorem test_feRegA :
    feAfter (exec (.feRegA 0x9C06 (.store 0x20 false)) (fe 0 0 false (chipA .read [] 0 0))) =
      some (0x20, 0, false) := by decide
/-- S6 1. -/
theorem test_feRegA_locked :
    feAfter (exec (.feRegA 0x9C02 (.store 0xAA false)) (fe 0 0 true (chipA .read [] 0 0))) =
      some (0, 0, true) := by decide
/-- V8 26. -/
theorem test_feRegB :
    byteAfter (exec (.feRegB 0x9FFF (.load 0x31 0)) (fe 0x20 0x15 false (chipA .read [] 0 0))) =
      some 0x15 := by decide
/-- V9 13. -/
theorem test_mcBankLow :
    mcAfter (exec (.mcBankLow 0x9D00 0x09 false) (mc 5 9 true false [])) = some (9, 9, true, false) := by decide
/-- V9 10. -/
theorem test_mcBankHigh :
    mcAfter (exec (.mcBankHigh 0x9C80 0x05 false) (mc 1 2 true true [])) = some (1, 5, true, true) := by decide
/-- V9 10: the byte goes to NVRAM too. -/
theorem test_mcBankHigh_nvram :
    bufferAfter (exec (.mcBankHigh 0x9C80 0x05 false) (mc 1 2 true true [])) .nvram 0x1C80 = some 0x05 := by decide
/-- V9 12. -/
theorem test_mcControl :
    mcAfter (exec (.mcControl 0x9F80 0x01 false) (mc 1 2 true true [])) = some (1, 1, true, false) := by decide
/-- V9 14. -/
theorem test_mcControl_enables :
    mcAfter (exec (.mcControl 0x9D80 0xFE false) (mc 1 2 true false [])) = some (0xFE, 0xFE, true, true) := by decide
/-- V10 4. -/
theorem test_vfpBankReg :
    vfpAfter (exec (.vfpBankReg 0x9800 (.store 0x12 false)) (vfp 0 0x40 [])) = some (0x12, 0x40, true) := by decide
/-- V10 14: the write that locks is accepted. -/
theorem test_vfpCfgReg :
    vfpAfter (exec (.vfpCfgReg 0x9801 (.store 0x80 false)) (vfp 0 0x40 [])) = some (0, 0x80, false) := by decide
/-- V10 14: then open bus. -/
theorem test_vfpCfgReg_locked :
    byteAfter (exec (.vfpCfgReg 0x9801 (.load 0x33 0)) (vfp 0 0x80 [])) = some 0x33 := by decide
/-- One step takes the operation out of the inbox and runs it. -/
theorem test_step :
    chipAfter (step ((blank .sectorErase).withFetchWord 8 0xB0)) 0 =
      some (.sectorEraseSuspend, 0xFF, 0, 0) := by decide
/-- R4, R353: the same bytes issued by a host are refused, and nothing reaches the chip. -/
theorem test_step_host :
    refusalOf (step { blank .sectorErase with inbox := tableBytes 8 0xB0 }) = some .notTheCallers := by decide

/-! ## Witnesses: for every statement with hypotheses, a state and operands that meet them -/

/-- Whether an operation completes. -/
def isNext : Result → Bool
  | .next _ => true
  | _ => false

theorem next_of_isNext {r : Result} (h : isNext r = true) : ∃ t, r = .next t := by
  cases r with
  | next t => exact ⟨t, rfl⟩
  | fault f => cases f
  | refused e => cases h

theorem eq_of_operationOf {bs : List Byte} {i : Instr} (h : operationOf bs = some i) : decode bs = .ok (i, []) := by
  unfold operationOf at h
  split at h
  · cases h; assumption
  · cases h

/-- A premise `s.Inv`: attached states of the other three variants, and a state with listed bytes. -/
theorem witness_inv :
    (State.attached .finalExpansion).Inv ∧ (State.attached .megaCart).Inv ∧ (State.attached .vicFlash).Inv ∧
    (fe 0 0 true (chipA .byteProgram [(0x100, 0xF0)] 0 0x0F)).Inv := by
  refine ⟨?_, ?_, ?_, ?_⟩
  · show FinalExpansion.wf _
    decide
  · show MegaCart.wf _
    decide
  · show VicFlash.wf _
    decide
  · show FinalExpansion.wf _
    decide

/-- A premise `s.Inv` for a MegaCart with any registers and for a VIC Flash Plugin as `vfp` builds it. -/
theorem witness_inv_registers : (∀ bl bh oe ne, (mc bl bh oe ne []).Inv) ∧ ∀ b c, (vfp b c []).Inv := by
  refine ⟨fun bl bh oe ne => ?_, fun b c => ?_⟩
  · show Buffer.wf ⟨15, []⟩ ∧ Buffer.wf ⟨13, [(0x1800, 0xC3)]⟩ ∧ Buffer.wf ⟨21, []⟩
    decide
  · show Buffer.wf ⟨15, []⟩ ∧ FlashChip.wf ⟨Config.vfpGeometry, .read, [], 0, 0, false⟩ ∧ _
    exact ⟨by decide, by decide, rfl⟩

/-- StepKeepsInvariant, StepRunsDecodedOperation, StepKeepsFixedParts: a state whose inbox holds a reset of the host's, and
its step; and one whose inbox holds a call of the controller's that a host has issued. -/
theorem witness_step : decode ((blank .chipErase).withFetchWord 96 0x0A00).inbox = .ok (.cReset .powerOn, []) ∧
    (Instr.cReset .powerOn).issuer = ((blank .chipErase).withFetchWord 96 0x0A00).caller ∧
    (∃ t, step ((blank .chipErase).withFetchWord 96 0x0A00) = .next t) ∧
    ((blank .chipErase).withFetchWord 96 0x0A00).Inv ∧ decode (tableBytes 8 0xB0) = .ok (.eraseSuspend 0, []) ∧
    (Instr.eraseSuspend 0).issuer ≠ (blank .sectorErase).caller ∧
    (Instr.eraseSuspend 0).issuer = ((blank .sectorErase).withFetchWord 8 0xB0).caller :=
  ⟨eq_of_operationOf (by decide), by decide, next_of_isNext (by decide), by show FinalExpansion.wf _; decide,
    eq_of_operationOf (by decide), by decide, by decide⟩

/-- StepWithNothingToRun: both clauses. -/
theorem witness_stepWithNothingToRun : (blank .read).inbox = [] ∧
    ({ blank .read with inbox := [0] } : State).inbox ≠ [] ∧ decode [0] = .error .truncated := ⟨rfl, by decide, rfl⟩

/-- DecodeOfEncode, at the extremes of a register row's addresses and of a command cycle's operands. -/
theorem witness_decodeOfEncode : Instr.wellFormed (.feRegA 0x9C02 (.store 0xFF true)) = true ∧
    Instr.wellFormed (.feRegB 0x9FFF (.load 0 0)) = true ∧ Instr.wellFormed (.eraseSelectAbort 0xFFFFFFFF 0x31) = true := by
  decide

/-- DecodedBytesAreEncoded. -/
theorem witness_decodedBytes : decode (encode (.cReset .software)) = .ok (.cReset .software, []) :=
  eq_of_operationOf (by decide)

/-- CanonicalMemoriesAreEqual. -/
theorem witness_canonical : Memory.wf [(3, 0), (9, 1)] ∧
    ∀ a, Memory.byteAt [(3, 0), (9, 1)] a = Memory.byteAt [(3, 0), (9, 1)] a :=
  ⟨by decide, fun _ => rfl⟩

/-- ProgramMergesBits, ProgramIsIdempotent: S1, 0xF0 and 0x3C. -/
theorem witness_program : FlashChip.wf (chipA .byteProgram [(0x100, 0xF0)] 0 0) ∧
    (chipA .byteProgram [(0x100, 0xF0)] 0 0).byteAt 0x100 = 0xF0 := by decide

/-- Every statement over `s.ctrl.flash? = some f`, an offset and a sequencer state: each of the thirteen states, at the
first and the last offset. -/
theorem witness_chip : ∀ q ∈ allStates, (blank q).Inv ∧ (blank q).ctrl.flash? = some (chipA q [] 0 0) ∧
    (0 : Offset).toNat < (chipA q [] 0 0).geometry.size ∧ (0x7FFFF : Offset).toNat < (chipA q [] 0 0).geometry.size ∧
    (chipA q [] 0 0).state = q := by
  intro q _
  cases q <;> exact ⟨by show FinalExpansion.wf _; decide, rfl, by decide, by decide, rfl⟩

/-- ReadInAutoselect: the four cases of the low address byte. -/
theorem witness_readInAutoselect : (0x100 : Offset).toNat % 256 = 0 ∧ (0x12301 : Offset).toNat % 256 = 1 ∧
    (0x7FF02 : Offset).toNat % 256 = 2 ∧ (0x7FFFF : Offset).toNat % 256 = 255 := by decide

/-- ReadReturnsArray, ReadDemotesFinishedStates, StoresIgnoredUntilRead: the lists of states. -/
theorem witness_stateLists : SeqState.read ∈ [SeqState.read, .magic1, .magic2, .byteProgram, .eraseMagic1,
      .eraseMagic2, .eraseSelect, .sectorEraseSuspend] ∧
    SeqState.sectorErase ∈ [SeqState.byteProgramHappening, .chipErase, .sectorErase] := by decide

/-- UnlockAndSetupRows, AbortRows, IgnoreRows, ChipEraseRow, UnlockReachesMagic2Exactly: a first and a second magic
address, an address that is neither, for both schemes (V1). -/
theorem witness_magic : Geometry.magic1 Config.feGeometry (0x5555 : Offset).toNat = true ∧
    Geometry.magic2 Config.feGeometry (0x2AAA : Offset).toNat = true ∧
    Geometry.magic1 Config.feGeometry (0x555 : Offset).toNat = false ∧
    Geometry.magic2 Config.feGeometry (0x5555 : Offset).toNat = false ∧
    Geometry.magic1 Config.vfpGeometry (0x3FFD55 : Offset).toNat = true ∧
    Geometry.magic2 Config.vfpGeometry (0xAAA : Offset).toNat = true := by decide

/-- AbortRows and IgnoreRows at a magic address with another byte, and at another address with the command byte. -/
theorem witness_abortAndIgnore :
    ¬ (Geometry.magic2 Config.feGeometry (0x2AAA : Offset).toNat = true ∧ (0x54 : Byte) = 0x55) ∧
    ¬ (Geometry.magic1 Config.feGeometry (0 : Offset).toNat = true ∧ (0xAA : Byte) = 0xAA) ∧
    ¬ (Geometry.magic1 Config.feGeometry (0x5555 : Offset).toNat = true ∧
      ((0xF0 : Byte) = 0x90 ∨ (0xF0 : Byte) = 0xA0 ∨ (0xF0 : Byte) = 0x80)) ∧ (0x31 : Byte) ≠ 0x30 ∧ (0xF1 : Byte) ≠ 0xF0 := by
  decide

/-- ArrayChangesOnlyByProgramOrErase: each of the three ways changes a byte. -/
theorem witness_arrayChanges : ((chipA .byteProgram [] 0 0).transition 5 0).byteAt 5 ≠ (chipA .byteProgram [] 0 0).byteAt 5 ∧
    ((chipA .eraseSelect [(5, 1)] 0 0).transition 0x5555 0x10).byteAt 5 ≠ (chipA .eraseSelect [(5, 1)] 0 0).byteAt 5 ∧
    ((chipA .eraseSelect [(5, 1)] 0 0).transition 0xFFFF 0x30).byteAt 5 ≠ (chipA .eraseSelect [(5, 1)] 0 0).byteAt 5 := by
  decide

/-- ProgramIsSeenByNextRead: a program that succeeds and one that fails. -/
theorem witness_programOutcome : (0x3C : Byte) &&& ~~~ 0xFF = 0 ∧ (0x3C : Byte) &&& ~~~ 0xF0 ≠ 0 := by decide

/-- AccessCompletesInWindows: the first and last address of every claimed range is in a window, its neighbours are
not. -/
theorem witness_windows :
    [windowOf 0x0400, windowOf 0x0FFF, windowOf 0x2000, windowOf 0x7FFF, windowOf 0x9800, windowOf 0x9FFF,
      windowOf 0xA000, windowOf 0xBFFF] =
    [some .ram123, some .ram123, some .blk1, some .blk3, some .io2, some .io3, some .blk5, some .blk5] ∧
    [windowOf 0x03FF, windowOf 0x1000, windowOf 0x1FFF, windowOf 0x8000, windowOf 0x97FF, windowOf 0xC000] =
    [none, none, none, none, none, none] := by decide

/-- AccessCompletesInWindows: the addresses at which one window ends and the next begins, on an UltiMem, which claims
all seven. -/
theorem witness_window_boundaries :
    [0x3FFF, 0x4000, 0x5FFF, 0x6000, 0x9BFF, 0x9C00].map (State.reset.ctrl.window? ·) =
    [some .blk1, some .blk2, some .blk2, some .blk3, some .io2, some .io3] := by decide

/-- AccessCompletesInWindows: IO2 and IO3 by variant, and the blocks a VIC Flash Plugin does not claim. -/
theorem witness_windows_by_variant :
    (blank .read).ctrl.window? 0x9BFF = none ∧ (blank .read).ctrl.window? 0x9C00 = some .io3 ∧
    (vfp 0 0x40 []).ctrl.window? 0x9C00 = none ∧ (vfp 0 0x40 []).ctrl.window? 0x4000 = none := by decide

/-- ReadThroughWindow: one address for each kind of resolution. -/
theorem witness_readThroughWindow :
    (let c := State.reset.ctrl
     c.window? 0x2000 = some .blk1 ∧ (c.readHook .blk1).configRead? 0x2000 0 = none ∧
       (c.readHook .blk1).resolve .blk1 0x2000 .load = .disabled) ∧
    (let c := State.reset.ctrl
     c.window? 0xBFFF = some .blk5 ∧ (c.readHook .blk5).configRead? 0xBFFF 0 = none ∧
       (c.readHook .blk5).resolve .blk5 0xBFFF .load = .flash 0x1FFF) ∧
    (let c := (mc 5 9 false true []).ctrl
     c.window? 0x7FFF = some .blk3 ∧ (c.readHook .blk3).configRead? 0x7FFF 0 = none ∧
       (c.readHook .blk3).resolve .blk3 0x7FFF .load = .rom 0xFFFFF) ∧
    (let c := (mc 0x80 0xC0 true true []).ctrl
     c.window? 0xA123 = some .blk5 ∧ (c.readHook .blk5).configRead? 0xA123 0 = none ∧
       (c.readHook .blk5).resolve .blk5 0xA123 .load = .ram .ram 0x6123) ∧
    (let c := (mc 0x80 0x80 true true []).ctrl
     c.window? 0x2000 = some .blk1 ∧ (c.readHook .blk1).configRead? 0x2000 0 = none ∧
       (c.readHook .blk1).resolve .blk1 0x2000 .load = .ramReadOnly .ram 0) := by decide

/-- ReadThroughWindow, WriteThroughWindow: a register answers at the first and the last address of its range, of an
UltiMem, a Final Expansion and a VIC Flash Plugin, for stores on MegaCart, and at no neighbour. -/
theorem witness_registerDecode :
    [0x9FEF, 0x9FF0, 0x9FFF].map (fun a => (State.reset.ctrl.configRead? a 0).isSome) = [false, true, true] ∧
    ((um 0 0x80 []).ctrl.configRead? 0x9FF0 0).isSome = false ∧
    [0x9C00, 0x9C01, 0x9C02, 0x9FFF, 0xA002].map (fun a => ((blank .read).ctrl.configRead? a 0).isSome) =
      [false, false, true, true, false] ∧
    [0x9800, 0x9BFF, 0xA000].map (fun a => ((vfp 0 0x40 []).ctrl.configWrite? a 0).isSome) = [true, true, false] ∧
    [0x9BFF, 0x9C00, 0x9FFF, 0xA000].map (fun a => ((mc 0 0 true true []).ctrl.configWrite? a 0).isSome) =
      [false, true, true, false] ∧ ((mc 0 0 true true []).ctrl.configRead? 0x9C80 0).isSome = false := by decide

/-- WriteThroughWindow and StoredByteIsReadBack: one address for each kind of resolution; the flash one write-protected
and not. -/
theorem witness_writeThroughWindow :
    (let c := (mc 0x80 0x02 true true []).ctrl
     c.window? 0x2000 = some .blk1 ∧ (c.writeHook .blk1 0x2000 1).configWrite? 0x2000 1 = none ∧
       (c.writeHook .blk1 0x2000 1).resolve .blk1 0x2000 .store = .disabled) ∧
    (let c := (mc 5 9 false true []).ctrl
     c.window? 0xBFFF = some .blk5 ∧ (c.writeHook .blk5 0xBFFF 1).configWrite? 0xBFFF 1 = none ∧
       (c.writeHook .blk5 0xBFFF 1).resolve .blk5 0xBFFF .store = .rom 0x1FFFFF) ∧
    (let c := (mc 0x80 0x80 true true []).ctrl
     (c.writeHook .blk1 0x2000 1).configWrite? 0x2000 1 = none ∧
       (c.writeHook .blk1 0x2000 1).resolve .blk1 0x2000 .store = .ramReadOnly .ram 0) ∧
    (let c := (State.attached .finalExpansion).ctrl
     c.window? 0xA000 = some .blk5 ∧ (c.writeHook .blk5 0xA000 1).configWrite? 0xA000 1 = none ∧
       (c.writeHook .blk5 0xA000 1).resolve .blk5 0xA000 .store = .ram .ram 0xE000) ∧
    (let c := (State.attached .vicFlash).ctrl
     c.window? 0xA000 = some .blk5 ∧ (c.writeHook .blk5 0xA000 1).configWrite? 0xA000 1 = none ∧
       (c.writeHook .blk5 0xA000 1).resolve .blk5 0xA000 .store = .flash 0 ∧ c.writeProtected = true) ∧
    (let c := (vfp 0 0x00 []).ctrl
     (c.writeHook .blk5 0xA000 1).configWrite? 0xA000 1 = none ∧
       (c.writeHook .blk5 0xA000 1).resolve .blk5 0xA000 .store = .flash 0 ∧ c.writeProtected = false) := by decide

/-- StoredByteIsReadBack: V9 9, an NVRAM byte stored through IO2 and read back there. -/
theorem witness_storedByteIsReadBack :
    (let c := (State.attached .megaCart).ctrl
     c.window? 0x9800 = some .io2 ∧ (c.writeHook .io2 0x9800 0x34).configWrite? 0x9800 0x34 = none ∧
       (c.writeHook .io2 0x9800 0x34).resolve .io2 0x9800 .store = .ram .nvram 0x1800) ∧
    (∃ t, exec (.cWrite 0x9800 0x34 false) (State.attached .megaCart) = .next t) ∧
    ctrlAfter (exec (.cWrite 0x9800 0x34 false) (State.attached .megaCart)) (fun c => c.window? 0x9800 = some .io2 ∧
      (c.readHook .io2).configRead? 0x9800 0 = none ∧
      (c.readHook .io2).resolve .io2 0x9800 .load = .ram .nvram 0x1800) = true :=
  ⟨by decide, next_of_isNext (by decide), by decide⟩

/-- ConfigReadAnswers, ConfigWriteTakes: the variants, and the first and last register address of each. -/
theorem witness_config : (∃ u, State.reset.ctrl = .ultiMem u ∧ u.locked = false) ∧
    (∃ e, (fe 0x20 0x15 false (chipA .read [] 0 0)).ctrl = .finalExpansion e ∧ e.locked = false) ∧
    (∃ e, (State.attached .finalExpansion).ctrl = .finalExpansion e ∧ e.locked = true) ∧
    (∃ v, (vfp 0 0x40 []).ctrl = .vicFlash v ∧ v.locked = false) ∧
    (∃ v, (vfp 0 0x80 []).ctrl = .vicFlash v ∧ v.locked = true) ∧
    (0x9FF0 ≤ (0x9FF0 : Addr).toNat ∧ (0x9FFF : Addr).toNat ≤ 0x9FFF ∧ (0x9FFF : Addr).toNat % 16 = 15) ∧
    ((0x9C02 : Addr).toNat % 4 = 2 ∧ (0x9FFF : Addr).toNat % 4 = 3) ∧
    ((0x9800 : Addr).toNat % 2 = 0 ∧ (0x9BFF : Addr).toNat % 2 = 1) :=
  ⟨⟨_, rfl, by decide⟩, ⟨_, rfl, by decide⟩, ⟨_, rfl, by decide⟩, ⟨_, rfl, by decide⟩, ⟨_, rfl, by decide⟩, by decide,
    by decide, by decide⟩

/-- UltiMemRegisterRows and UltiMemHiddenRegisters: registers visible and hidden. -/
theorem witness_ultiMemRegisters : (∃ u, State.reset.ctrl = .ultiMem u ∧ (u.regs.get 0).getLsbD 7 = false) ∧
    (∃ u, (um 0 0x80 []).ctrl = .ultiMem u ∧ (u.regs.get 0).getLsbD 7 = true) :=
  ⟨⟨_, rfl, by decide⟩, ⟨_, rfl, by decide⟩⟩

/-- UltiMemResolution: the default inversion, with the field and the bank of BLK5 after reset. The statement has no other
premise than what `field`, `bank` and `inv` stand for, so an UltiMem with another inversion meets it too. -/
theorem witness_ultiMemResolution : Config.umParams.inversion = .none ∧ (Config.umResetRegs.get 2).toNat / 64 = 1 ∧
    256 * (Config.umResetRegs.get 15).toNat + (Config.umResetRegs.get 14).toNat = 0 ∧
    ∃ u : UltiMem, u.params.inversion = .other 0 :=
  ⟨rfl, by decide, by decide,
    ⟨⟨Config.umResetRegs, ⟨20, []⟩, FlashChip.powerOn Config.umGeometry, { Config.umParams with inversion := .other 0 }⟩,
      rfl⟩⟩

/-- FinalExpansionRegisterRows: the part of IO3 where no register answers. -/
theorem witness_feRestOfIo3 : (0x9C00 : Addr).toNat % 4 < 2 ∧ (0x9FFD : Addr).toNat % 4 < 2 ∧
    0x9C00 ≤ (0x9C00 : Addr).toNat ∧ (0x9FFD : Addr).toNat ≤ 0x9FFF := by decide

/-- FinalExpansionRegisterRows: locked by the lock bit, locked by register-off, and not locked. -/
theorem witness_feLocked :
    let locked := fun (a b : Byte) (l : Bool) => (a.toNat / 32 = 0 ∧ l = true) ∨ b.getLsbD 7 = true
    locked 0 0 true ∧ locked 0x20 0x80 false ∧ ¬ locked 0 0 false ∧ ¬ locked 0x20 0x7F true := by decide

/-- FinalExpansionLockBitHook and FinalExpansionScenario: S6. -/
theorem witness_feScenario : ∃ e, (State.attached .finalExpansion).ctrl = .finalExpansion e ∧ e.regA = 0x00 ∧
    e.regB = 0x00 ∧ e.lockBit = true ∧ e.flash.state = .read ∧ 0xA000 ≤ (0xBFFF : Addr).toNat ∧
    (0xBFFF : Addr).toNat ≤ 0xBFFF := ⟨_, rfl, rfl, rfl, rfl, rfl, by decide⟩

/-- FinalExpansionResolution: the default table, BLK1 and BLK5, mode 2 with bank 4 and mode 7. -/
theorem witness_feResolution : (∃ e, (fe 0x44 0 false (chipA .read [] 0 0)).ctrl = .finalExpansion e ∧
      e.table = .standard ∧ e.regA.toNat / 32 = 2 ∧ e.regA.toNat % 32 = 4) ∧ (0xE0 : Byte).toNat / 32 = 7 :=
  ⟨⟨_, rfl, rfl, by decide, by decide⟩, by decide⟩

/-- FinalExpansionResolution, last clause: two values of register A in mode Start, with another mode table. -/
theorem witness_feStart : (0x1F : Byte).toNat / 32 = 0 ∧
    ∃ e : FinalExpansion, e.regA.toNat / 32 = 0 ∧ e.regA ≠ 0x1F ∧ e.table = .other 0 :=
  ⟨by decide, ⟨0, 0, true, ⟨19, []⟩, chipA .read [] 0 0, .other 0⟩, by decide, by decide, rfl⟩

/-- SuperRomStoreBank: mode SuperROM, an even and an odd bank, a block that is on. -/
theorem witness_superRom : feBlockOf .blk1 = some .blk1 ∧ FeBlock.blk1 ≠ .blk0 ∧ (0x44 : Byte).toNat / 32 = 2 ∧
    (0x45 : Byte).toNat / 32 = 2 ∧ (0x00 : Byte).getLsbD (feBlockBit .blk1) = false := by decide

/-- MegaCartControlRows: an address of each decode, NVRAM enabled and not. -/
theorem witness_megaCartControl : (0x9D00 : Addr).toNat / 0x80 % 4 = 2 ∧ (0x9C80 : Addr).toNat / 0x80 % 4 = 1 ∧
    (0x9FFF : Addr).toNat / 0x80 % 4 = 3 ∧
    ((0x9C00 : Addr).toNat / 0x80 % 4 = 0 ∧ (0x9E7F : Addr).toNat / 0x80 % 4 = 0) ∧ (∃ m, (mc 0 0 true true []).ctrl = .megaCart m ∧ m.nvramEnable = true) ∧
    (∃ m, (mc 0 0 true false []).ctrl = .megaCart m ∧ m.nvramEnable = false) :=
  ⟨by decide, by decide, by decide, by decide, ⟨_, rfl, rfl⟩, ⟨_, rfl, rfl⟩⟩

/-- MegaCartResolution and VicFlashResolution: the default lengths. -/
theorem witness_sizes : (∃ m, (mc 0 0 true true []).ctrl = .megaCart m ∧ m.rom.size = 0x200000 ∧ m.ram.size = 0x8000 ∧
      m.nvram.size = 0x2000) ∧
    ∃ v, (vfp 0 0x40 []).ctrl = .vicFlash v ∧ v.flash.geometry.size = 0x400000 ∧ v.ram.size = 0x8000 :=
  ⟨⟨_, rfl, by decide, by decide, by decide⟩, ⟨_, rfl, by decide, by decide⟩⟩

/-- VicFlashRegisterRows and WriteProtectFreezesFlash: open and locked registers, write-protect set. -/
theorem witness_vicFlash : (∃ v, (vfp 0 0x40 []).ctrl = .vicFlash v ∧ v.cfgEn = true ∧ v.cfgReg.getLsbD 6 = true) ∧
    (∃ v, (vfp 0 0x80 []).ctrl = .vicFlash v ∧ v.cfgEn = false) ∧ (vfp 0 0x40 []).ctrl.window? 0xA000 = some .blk5 :=
  ⟨⟨_, rfl, rfl, by decide⟩, ⟨_, rfl, by decide⟩, by decide⟩

/-- LocksHeldUntilReset, LatchWriters, ControllerResets: an operation that completes on each variant with its lock set. -/
theorem witness_locks : (∃ t, exec (.cWrite 0x9FF0 0x00 false) (um 0 0x80 []) = .next t) ∧
    (∃ t, exec (.cWrite 0x9C03 0x00 false) (fe 0x20 0x80 false (chipA .read [] 0 0)) = .next t) ∧
    (∃ t, exec (.cWrite 0x9D80 0x01 false) (mc 0 0 true true []) = .next t) ∧
    (∃ t, exec (.cWrite 0x9801 0x00 false) (vfp 0 0x80 []) = .next t) ∧
    ∀ kind, Instr.cWrite 0x9801 0x00 false ≠ .cReset kind :=
  ⟨next_of_isNext (by decide), next_of_isNext (by decide), next_of_isNext (by decide), next_of_isNext (by decide),
    by intro kind; simp⟩

/-- LocksHeldUntilReset: a set lock bit, and operations at the last address below IO and the last below BLK5. -/
theorem witness_lockBit : (∃ t, exec (.cRead 0x7FFF 0 0) (blank .read) = .next t) ∧
    (∀ addr, (Instr.cRead 0x7FFF 0 0).target = .cpu addr → ¬ (0xA000 ≤ addr.toNat ∧ addr.toNat ≤ 0xBFFF)) ∧
    (∀ addr, (Instr.cRead 0x9FFF 0 0).target = .cpu addr → ¬ (0xA000 ≤ addr.toNat ∧ addr.toNat ≤ 0xBFFF)) ∧
    ∃ e, (blank .read).ctrl = .finalExpansion e ∧ e.lockBit = true := by
  refine ⟨next_of_isNext (by decide), ?_, ?_, ⟨_, rfl, rfl⟩⟩ <;>
    (intro addr h; cases h; decide)

/-- WriteProtectFreezesFlash: operations at the CPU address, of the registers and of BLK5, that complete. -/
theorem witness_writeProtect : (Instr.vfpCfgReg 0x9801 (.store 0x00 false)).target = .cpu 0x9801 ∧
    (∃ t, exec (.vfpCfgReg 0x9801 (.store 0x00 false)) (vfp 0 0x40 []) = .next t) ∧
    (vfp 0 0x40 []).ctrl.window? 0x9801 = some .io2 ∧ (Instr.cRead 0xA000 0 0).target = .cpu 0xA000 ∧
    ∃ t, exec (.cRead 0xA000 0 0) (vfp 0 0x40 []) = .next t :=
  ⟨rfl, next_of_isNext (by decide), by decide, rfl, next_of_isNext (by decide)⟩

/-- LatchWriters: a store that programs, delivered through BLK5 and beneath the controller; POWER_ON. -/
theorem witness_latchWriters :
    let f : FlashChip := ⟨Config.vfpGeometry, .byteProgram, [], 0x11, 0x22, true⟩
    let s : State := ⟨.vicFlash ⟨0, 0x00, true, ⟨15, []⟩, f⟩, [], none, .host⟩
    s.ctrl.flash? = some f ∧ s.deliversStore (.cWrite 0xA005 0x3C false) 5 0x3C false ∧
    s.deliversStore (.fStore 5 0x3C) 5 0x3C false ∧ f.mayAlter 5 false ∧
    (∃ t, exec (.cWrite 0xA005 0x3C false) s = .next t) ∧ ∃ t, exec (.cReset .powerOn) s = .next t :=
  ⟨rfl, ⟨rfl, .blk5, by decide, by decide, rfl⟩, ⟨rfl, rfl⟩, .inl rfl, next_of_isNext (by decide), ⟨_, rfl⟩⟩

/-- StepKeepsFixedParts, second clause: a host operation that stores through a window, one that stores nothing. -/
theorem witness_hostOperations : (Instr.cWrite 0x7FFF 0x22 false).issuer = .host ∧
    (∃ t, exec (.cWrite 0x7FFF 0x22 false) (mc 0x80 0xC0 true true []) = .next t) ∧ (Instr.fPeek 0).issuer = .host ∧
    ∃ t, exec (.fPeek 0) (blank .read) = .next t :=
  ⟨rfl, next_of_isNext (by decide), rfl, next_of_isNext (by decide)⟩

/-- RefusalsHaveTheirReason: each refusal, at the first offset beyond the chip and the first address outside. -/
theorem witness_refusals : refusalOf (exec (.fRead 0x80000 0) (blank .read)) = some .offsetOutOfRange ∧
    refusalOf (exec (.fRead 0 0) (mc 0 0 true true [])) = some .noFlashChip ∧
    refusalOf (exec (.cRead 0xC000 0 0) (blank .read)) = some .outsideWindows := by decide

end Sys2Proof.Tests
end

section
/-! SUPPORT. Every operation is a reset or one of the shared operations: an access of the bus at its address, or
a read, a peek or a store of the chip at its offset (log 9, log 10, log 11). -/

namespace Sys2Proof.Machine

/-- Where a configuration register answers a read, the read hook does nothing: the one read hook, the Final
Expansion's, acts in BLK5, and its registers lie in IO3 (R244, R246). -/
theorem Controller.readHook_of_configRead? {c : Controller} {w : Window} {addr : Addr} {busLast v : Byte}
    (hw : c.window? addr = some w) (hr : c.configRead? addr busLast = some v) : c.readHook w = c := by
  rcases c.readHook_cases w with h | ⟨e, rfl, rfl, -⟩
  · exact h
  · rw [Controller.configRead?, Option.map_eq_some_iff] at hr
    obtain ⟨r, hr, -⟩ := hr
    have blk5 := ((Controller.window?_eq_some _ _ _).1 hw).1
    have io3 := windowOf_of_feRegisterAt addr r hr
    cases blk5.symm.trans io3

/-- A configuration read is the bus read at its address (R180). -/
theorem execCConfigRead_eq_busRead (addr : Addr) (busLast : Byte) (cyc : Cycle) (s : State) :
    execCConfigRead addr busLast cyc s = busRead addr busLast cyc s := by
  unfold execCConfigRead busRead
  cases hw : s.ctrl.window? addr with
  | none => simp only [onWindow, hw]
  | some w =>
    rw [onWindow_eq _ _ _ _ hw, onWindow_eq _ _ _ _ hw]
    cases hr : s.ctrl.configRead? addr busLast with
    | none => rfl
    | some v => simp [Controller.read, Controller.readHook_of_configRead? hw hr, hr]

/-- A configuration write is the bus write at its address (R180). -/
theorem execCConfigWrite_eq_busWrite (addr : Addr) (b : Byte) (rmw : Bool) (s : State) :
    execCConfigWrite addr b rmw s = busWrite addr b rmw s := by
  unfold execCConfigWrite busWrite
  congr 1
  funext w
  cases h : (s.ctrl.writeHook w addr b).configWrite? addr b with
  | none => rfl
  | some c => simp [Controller.write, h]

/-- Each MegaCart row is the bus write at its address. -/
theorem execMc_eq_busWrite (addr : Addr) (b : Byte) (rmw : Bool) (s : State) :
    execMcBankLow addr b rmw s = busWrite addr b rmw s ∧ execMcBankHigh addr b rmw s = busWrite addr b rmw s ∧
    execMcControl addr b rmw s = busWrite addr b rmw s := by
  refine ⟨mcControlRow_eq_busWrite _ _ _ _ _ _ fun m h => ?_, mcControlRow_eq_busWrite _ _ _ _ _ _ fun m h => ?_,
    mcControlRow_eq_busWrite _ _ _ _ _ _ fun m h => ?_⟩ <;>
    (simp only [Bool.and_eq_true, Bool.not_eq_true'] at h
     simp only [MegaCart.decodeControl, h])

/-- Every operation at a CPU address is an access of the bus there, a store exactly where the operation stores
(R180, log 10, log 11). -/
theorem exec_of_target_cpu (i : Instr) (addr : Addr) (s : State) (h : i.target = .cpu addr) :
    ∃ acc : Access, acc.stored? = i.stored? ∧ exec i s = busAccess addr acc s := by
  cases i <;> cases h
  case cRead busLast cyc => exact ⟨.load busLast cyc, rfl, rfl⟩
  case cWrite b rmw => exact ⟨.store b rmw, rfl, rfl⟩
  case cConfigRead busLast cyc => exact ⟨.load busLast cyc, rfl, execCConfigRead_eq_busRead ..⟩
  case cConfigWrite b rmw => exact ⟨.store b rmw, rfl, execCConfigWrite_eq_busWrite ..⟩
  case mcBankLow b rmw => exact ⟨.store b rmw, rfl, (execMc_eq_busWrite ..).1⟩
  case mcBankHigh b rmw => exact ⟨.store b rmw, rfl, (execMc_eq_busWrite ..).2.1⟩
  case mcControl b rmw => exact ⟨.store b rmw, rfl, (execMc_eq_busWrite ..).2.2⟩
  case feRegA acc | feRegB acc => exact ⟨acc, rfl, feRegister_eq_busAccess ..⟩
  case vfpBankReg acc | vfpCfgReg acc => exact ⟨acc, rfl, vfpRegister_eq_busAccess ..⟩
  all_goals exact ⟨_, rfl, umRegister_eq_busAccess ..⟩

/-- Every operation that stores at an offset of the chip is the chip's store of its byte there (R85, log 9), and is the
controller's call. -/
theorem exec_of_target_offset (i : Instr) (a : Offset) (b : Byte) (rmw : Bool) (s : State)
    (ha : i.target = .offset a) (hb : i.stored? = some (b, rmw)) :
    i.issuer = .controller ∧ exec i s = onFlash s a fun f o => (none, f.store o b rmw) := by
  cases i <;> cases ha <;> cases hb <;> refine ⟨rfl, ?_⟩
  case fStore | fStoreRmw => rfl
  all_goals
    dsimp only [exec]
    -- where a row is selected, its effect is the branch of `transition` for its state, byte and address class
    refine commandCycle_eq_store s a _ _ _ fun f o h => ?_
    grind [FlashChip.transition]

end Sys2Proof.Machine
end

section
/-! SUPPORT. The inversion of `exec`: what an operation that completes has done. -/

namespace Sys2Proof.Machine

/-- Everything an operation that completes can have done to the machine. -/
inductive Completes (i : Instr) (s : State) : State → Prop
  /-- C.reset. -/
  | reset (kind : ResetKind) : i = .cReset kind → Completes i s (s.answer none (s.ctrl.reset kind))
  /-- F.reset. -/
  | chipReset (f : FlashChip) : i = .fReset → s.ctrl.flash? = some f → Completes i s (s.withChip f.reset none)
  /-- F.read. -/
  | chipRead (f : FlashChip) (a : Offset) (cyc : Cycle) : i = .fRead a cyc → s.ctrl.flash? = some f →
      Completes i s (s.withChip (f.read a.toNat cyc).2 (some (f.read a.toNat cyc).1))
  /-- F.peek. -/
  | chipPeek (f : FlashChip) (a : Offset) : i = .fPeek a → s.ctrl.flash? = some f →
      Completes i s (s.withChip f (some (f.byteAt a.toNat)))
  /-- F.store and the command cycles. -/
  | chipStore (f : FlashChip) (a : Offset) (b : Byte) (rmw : Bool) : i.issuer = .controller → i.target = .offset a →
      i.stored? = some (b, rmw) → s.ctrl.flash? = some f → Completes i s (s.withChip (f.store a.toNat b rmw) none)
  /-- A load at a CPU address. -/
  | busRead (addr : Addr) (w : Window) (busLast : Byte) (cyc : Cycle) : i.target = .cpu addr → i.stored? = none →
      s.ctrl.window? addr = some w →
      Completes i s (s.answer (some (s.ctrl.read w addr busLast cyc).1) (s.ctrl.read w addr busLast cyc).2)
  /-- A store at a CPU address. -/
  | busWrite (addr : Addr) (w : Window) (b : Byte) (rmw : Bool) : i.target = .cpu addr →
      i.stored? = some (b, rmw) → s.ctrl.window? addr = some w →
      Completes i s (s.answer none (s.ctrl.write w addr b rmw))

/-- An operation of the chip completes only with a chip attached, and then as the operation says. -/
theorem onFlash_next {s t : State} {a : Offset} {op : FlashChip → Nat → Option Byte × FlashChip}
    (h : onFlash s a op = .next t) :
    ∃ f, s.ctrl.flash? = some f ∧ t = s.withChip (op f a.toNat).2 (op f a.toNat).1 := by
  rcases onFlash_cases s a op with ⟨-, hr⟩ | ⟨f, hf, ⟨-, hn⟩ | ⟨-, hr⟩⟩
  · rw [hr] at h; cases h
  · rw [hn] at h; cases h; exact ⟨f, hf, rfl⟩
  · rw [hr] at h; cases h

/-- An operation at a CPU address completes only in a window, and then as the operation says. -/
theorem onWindow_next {s t : State} {addr : Addr} {op : Window → Option Byte × Controller}
    (h : onWindow s addr op = .next t) :
    ∃ w, s.ctrl.window? addr = some w ∧ t = s.answer (op w).1 (op w).2 := by
  rcases onWindow_cases s addr op with ⟨-, hr⟩ | ⟨w, hw, hn⟩
  · rw [hr] at h; cases h
  · rw [hn] at h; cases h; exact ⟨w, hw, rfl⟩

/-- The operations at an offset that store nothing are F.read and F.peek. -/
theorem eq_fRead_or_fPeek {i : Instr} {a : Offset} (ha : i.target = .offset a) (hb : i.stored? = none) :
    (∃ cyc, i = .fRead a cyc) ∨ i = .fPeek a := by
  cases i <;> cases ha <;> cases hb
  case fRead cyc => exact .inl ⟨cyc, rfl⟩
  case fPeek => exact .inr rfl

/-- An operation at a CPU address completes as a load or as a store there. -/
theorem completes_of_busAccess {i : Instr} {s t : State} {addr : Addr} {acc : Access} (ha : i.target = .cpu addr)
    (hacc : acc.stored? = i.stored?) (h : busAccess addr acc s = .next t) : Completes i s t := by
  cases acc with
  | load busLast cyc =>
    obtain ⟨w, hw, rfl⟩ := onWindow_next h
    exact .busRead addr w busLast cyc ha hacc.symm hw
  | store b rmw =>
    obtain ⟨w, hw, rfl⟩ := onWindow_next h
    exact .busWrite addr w b rmw ha hacc.symm hw

/-- An operation at an offset of the chip completes as a read, a peek or a store there. -/
theorem completes_of_target_offset {i : Instr} {s t : State} {a : Offset} (ha : i.target = .offset a)
    (h : exec i s = .next t) : Completes i s t := by
  cases hb : i.stored? with
  | some p =>
    obtain ⟨b, rmw⟩ := p
    obtain ⟨hi, he⟩ := exec_of_target_offset i a b rmw s ha hb
    obtain ⟨f, hf, rfl⟩ := onFlash_next (he.symm.trans h)
    exact .chipStore f a b rmw hi ha hb hf
  | none =>
    rcases eq_fRead_or_fPeek ha hb with ⟨cyc, rfl⟩ | rfl
    · obtain ⟨f, hf, rfl⟩ := onFlash_next (show execFRead a cyc s = .next t from h)
      exact .chipRead f a cyc rfl hf
    · obtain ⟨f, hf, rfl⟩ := onFlash_next (show execFPeek a s = .next t from h)
      exact .chipPeek f a rfl hf

/-- Inversion of `exec`: what an operation that completes has done. -/
theorem completes_of_exec {i : Instr} {s t : State} (h : exec i s = .next t) : Completes i s t := by
  cases ht : i.target with
  | controller =>
    cases i <;> cases ht
    cases h
    exact .reset _ rfl
  | chip =>
    cases i <;> cases ht
    change execFReset s = .next t at h
    unfold execFReset at h
    split at h
    · cases h
    · rename_i f hf
      cases h
      exact .chipReset f rfl hf
  | offset a => exact completes_of_target_offset ht h
  | cpu addr =>
    obtain ⟨acc, hacc, he⟩ := exec_of_target_cpu i addr s ht
    exact completes_of_busAccess ht hacc (he.symm.trans h)

/-- No operation changes the caller: `step` alone does. -/
theorem exec_caller {i : Instr} {s t : State} (h : exec i s = .next t) : t.caller = s.caller := by
  cases completes_of_exec h <;> rfl

end Sys2Proof.Machine
end

section
/-! SUPPORT. The step: what runs, and when. -/

namespace Sys2Proof.Machine

/-- The decoder checks the operands of the row it has found. -/
theorem wellFormed_of_decodeWord {w : HostWord} {i : Instr} (h : decodeWord w = .ok i) : i.wellFormed = true := by
  unfold decodeWord at h
  split at h
  · cases h
  · split at h
    · cases h
    · split at h
      · cases h
      · rename_i hwf
        cases h
        simpa using hwf

/-- What decodes is well-formed. -/
theorem wellFormed_of_decode {bs rest : List Byte} {i : Instr} (h : decode bs = .ok (i, rest)) :
    i.wellFormed = true := by
  unfold decode at h
  split at h
  · split at h
    · cases h
    · rename_i hw
      cases h
      exact wellFormed_of_decodeWord hw
  · cases h

/-- A step at an inbox that decodes runs the operation for its own caller and refuses it for the other. -/
theorem step_of_decode {s : State} {i : Instr} {rest : List Byte} (h : decode s.inbox = .ok (i, rest)) :
    step s = if i.issuer = s.caller then exec i { s with inbox := rest, caller := .host }
      else .refused .notTheCallers := by
  unfold step
  split
  · rename_i he
    rw [he] at h
    cases h
  · simp [h]

/-- A step that answers a next state has done nothing, or has run an operation of the caller's. -/
theorem step_next {s t : State} (h : step s = .next t) :
    t = s ∨ ∃ i rest, decode s.inbox = .ok (i, rest) ∧ i.issuer = s.caller ∧
      exec i { s with inbox := rest, caller := .host } = .next t := by
  cases hd : decode s.inbox with
  | ok p =>
    obtain ⟨i, rest⟩ := p
    rw [step_of_decode hd] at h
    split at h
    · rename_i hi
      exact .inr ⟨i, rest, rfl, hi, h⟩
    · cases h
  | error e =>
    unfold step at h
    split at h
    · cases h
      exact .inl rfl
    · rw [hd] at h
      cases h

end Sys2Proof.Machine
end

section
/-! SUPPORT. What each part of a controller access leaves unchanged (R4). -/

namespace Sys2Proof.Machine

/-- A controller has its own fixed parts. -/
theorem Controller.sameFixed_refl (c : Controller) : c.sameFixed c := by
  cases c <;> simp [Controller.sameFixed]

/-- What each of two changes in turn leaves fixed, both leave fixed. -/
theorem Controller.sameFixed_trans {c d e : Controller} (h : c.sameFixed d) (h' : d.sameFixed e) :
    c.sameFixed e := by
  -- a premise between two variants is False, so only the four cases of one variant are left
  cases c <;> cases d <;> cases h <;> cases e <;> cases h'
  all_goals simp_all [Controller.sameFixed]

/-- A controller holds its own buffers. -/
theorem Controller.sameBuffers_refl (c : Controller) : c.sameBuffers c := by
  cases c <;> simp [Controller.sameBuffers]

/-- A chip of the same geometry in place of a controller's own leaves what is fixed. -/
theorem Controller.sameFixed_withFlash {c : Controller} {f g : FlashChip} (hf : c.flash? = some f)
    (hg : g.geometry = f.geometry) : c.sameFixed (c.withFlash g) := by
  cases c <;> cases hf <;> simp [Controller.sameFixed, Controller.withFlash, hg]

/-- A chip with the same array in place of a controller's own leaves the buffers. -/
theorem Controller.sameBuffers_withFlash {c : Controller} {f g : FlashChip} (hf : c.flash? = some f)
    (hg : g.backing = f.backing) : c.sameBuffers (c.withFlash g) := by
  cases c <;> cases hf <;> simp [Controller.sameBuffers, Controller.withFlash, hg]

/-- The read hook leaves the buffers. -/
theorem Controller.sameBuffers_readHook (c : Controller) (w : Window) : c.sameBuffers (c.readHook w) := by
  rcases c.readHook_cases w with h | ⟨e, rfl, -, h⟩ <;> rw [h]
  · exact c.sameBuffers_refl
  · exact ⟨rfl, rfl⟩

/-- The read hook leaves the fixed parts. -/
theorem Controller.sameFixed_readHook (c : Controller) (w : Window) : c.sameFixed (c.readHook w) := by
  rcases c.readHook_cases w with h | ⟨e, rfl, -, h⟩ <;> rw [h]
  · exact c.sameFixed_refl
  · exact ⟨rfl, rfl, rfl⟩

/-- The write hook leaves the fixed parts: of the buffers it writes NVRAM bytes only (R284). -/
theorem Controller.sameFixed_writeHook (c : Controller) (w : Window) (addr : Addr) (b : Byte) :
    c.sameFixed (c.writeHook w addr b) := by
  rcases c.writeHook_cases w addr b with h | ⟨e, rfl, -, h⟩ | ⟨m, rfl, -, h⟩ <;> rw [h]
  · exact c.sameFixed_refl
  · exact ⟨rfl, rfl, rfl⟩
  · obtain ⟨bl, bh, ne, hm⟩ := m.controlWrite_cases addr b
    rw [hm]
    refine ⟨rfl, rfl, ?_⟩
    cases m.nvramEnable <;> rfl

/-- A buffer write leaves the length of the buffer and every other fixed part. -/
theorem Controller.sameFixed_bufferWrite (c : Controller) (buf : BufferName) (o : Nat) (b : Byte) :
    c.sameFixed (c.bufferWrite buf o b) := by
  cases c <;> cases buf <;> simp [Controller.sameFixed, Controller.bufferWrite]

/-- The registers of the Final Expansion are apart from its chip, table and RAM. -/
theorem FinalExpansion.writeReg_keeps (e : FinalExpansion) (r : FeReg) (b : Byte) :
    (e.writeReg r b).flash = e.flash ∧ (e.writeReg r b).table = e.table ∧ (e.writeReg r b).ram = e.ram := by
  unfold FinalExpansion.writeReg
  split
  · exact ⟨rfl, rfl, rfl⟩
  · cases r <;> exact ⟨rfl, rfl, rfl⟩

/-- The registers of the VIC Flash Plugin are apart from its chip and RAM. -/
theorem VicFlash.writeReg_keeps (v : VicFlash) (r : VfpReg) (b : Byte) :
    (v.writeReg r b).flash = v.flash ∧ (v.writeReg r b).ram = v.ram := by
  unfold VicFlash.writeReg
  split
  · exact ⟨rfl, rfl⟩
  · cases r <;> exact ⟨rfl, rfl⟩

/-- A register write changes neither the fixed parts nor the chip. -/
theorem Controller.configWrite?_keeps {c c' : Controller} {addr : Addr} {b : Byte}
    (h : c.configWrite? addr b = some c') : c.sameFixed c' ∧ c'.flash? = c.flash? := by
  cases c with
  | ultiMem u =>
    simp only [Controller.configWrite?] at h
    split at h
    · cases h; exact ⟨⟨rfl, rfl, rfl⟩, rfl⟩
    · cases h
  | finalExpansion e =>
    simp only [Controller.configWrite?, Option.map_eq_some_iff] at h
    obtain ⟨r, -, rfl⟩ := h
    obtain ⟨hf, ht, hr⟩ := e.writeReg_keeps r b
    exact ⟨⟨ht, congrArg _ hf, congrArg _ hr⟩, congrArg some hf⟩
  | megaCart m =>
    simp only [Controller.configWrite?] at h
    split at h
    · cases h; exact ⟨Controller.sameFixed_refl _, rfl⟩
    · cases h
  | vicFlash v =>
    simp only [Controller.configWrite?, Option.map_eq_some_iff] at h
    obtain ⟨r, -, rfl⟩ := h
    obtain ⟨hf, hr⟩ := v.writeReg_keeps r b
    exact ⟨⟨congrArg _ hf, congrArg _ hr⟩, congrArg some hf⟩

/-- A reset changes neither the fixed parts nor a buffer (R365). -/
theorem Controller.reset_keeps (c : Controller) (kind : ResetKind) :
    c.sameFixed (c.reset kind) ∧ c.sameBuffers (c.reset kind) := by
  cases c with
  | megaCart m => cases kind <;> exact ⟨⟨rfl, rfl, rfl⟩, rfl, rfl, rfl⟩
  | _ => simp [Controller.sameFixed, Controller.sameBuffers, Controller.reset]

/-- A read through a window changes neither the fixed parts nor a buffer. -/
theorem Controller.read_keeps (c : Controller) (w : Window) (addr : Addr) (busLast : Byte) (cyc : Cycle) :
    c.sameFixed (c.read w addr busLast cyc).2 ∧ c.sameBuffers (c.read w addr busLast cyc).2 := by
  rcases c.read_cases w addr busLast cyc with ⟨v, h⟩ | ⟨o, f, -, hf, h⟩ <;> rw [h]
  · exact ⟨c.sameFixed_readHook w, c.sameBuffers_readHook w⟩
  · rcases c.readHook_cases w with hw | ⟨e, rfl, -, hw⟩ <;> rw [hw]
    · exact ⟨Controller.sameFixed_withFlash hf rfl, Controller.sameBuffers_withFlash hf rfl⟩
    · cases hf
      exact ⟨⟨rfl, rfl, rfl⟩, rfl, rfl⟩

/-- A write through a window leaves the fixed parts. -/
theorem Controller.sameFixed_write (c : Controller) (w : Window) (addr : Addr) (b : Byte) (rmw : Bool) :
    c.sameFixed (c.write w addr b rmw) := by
  refine Controller.sameFixed_trans (c.sameFixed_writeHook w addr b) ?_
  rcases c.write_cases w addr b rmw with h | ⟨-, h | ⟨buf, o, -, h⟩ | ⟨o, f, -, hf, -, h⟩⟩
  · exact (Controller.configWrite?_keeps h).1
  · rw [h]
    exact Controller.sameFixed_refl _
  · rw [h]
    exact Controller.sameFixed_bufferWrite ..
  · rw [h]
    rw [← (c.flash?_hooks w addr b).2] at hf
    exact Controller.sameFixed_withFlash hf (f.store_keeps o b rmw).1

/-- No operation changes what is fixed at attach. -/
theorem exec_sameFixed {i : Instr} {s t : State} (h : exec i s = .next t) : s.ctrl.sameFixed t.ctrl := by
  cases completes_of_exec h with
  | reset kind _ => exact (s.ctrl.reset_keeps kind).1
  | chipReset f _ hf => exact Controller.sameFixed_withFlash hf rfl
  | chipRead f a cyc _ hf => exact Controller.sameFixed_withFlash hf rfl
  | chipPeek f a _ hf => exact Controller.sameFixed_withFlash hf rfl
  | chipStore f a b rmw _ _ _ hf => exact Controller.sameFixed_withFlash hf (f.store_keeps a.toNat b rmw).1
  | busRead addr w busLast cyc _ _ _ => exact (s.ctrl.read_keeps w addr busLast cyc).1
  | busWrite addr w b rmw _ _ _ => exact s.ctrl.sameFixed_write w addr b rmw

/-- An operation of the host's leaves every buffer or is the controller's write at its CPU address (R4). -/
theorem exec_host_sameBuffers_or_write {i : Instr} {s t : State} (hi : i.issuer = .host) (h : exec i s = .next t) :
    s.ctrl.sameBuffers t.ctrl ∨
    ∃ addr w b rmw, i.target = .cpu addr ∧ i.stored? = some (b, rmw) ∧ s.ctrl.window? addr = some w ∧
      t = s.answer none (s.ctrl.write w addr b rmw) := by
  cases completes_of_exec h with
  | reset kind _ => exact .inl (s.ctrl.reset_keeps kind).2
  | chipReset f he _ => subst he; cases hi
  | chipRead f a cyc he _ => subst he; cases hi
  | chipPeek f a _ hf => exact .inl (Controller.sameBuffers_withFlash hf rfl)
  | chipStore f a b rmw hc _ _ _ => rw [hi] at hc; cases hc
  | busRead addr w busLast cyc _ _ _ => exact .inl (s.ctrl.read_keeps w addr busLast cyc).2
  | busWrite addr w b rmw ht hb hw => exact .inr ⟨addr, w, b, rmw, ht, hb, hw, rfl⟩

end Sys2Proof.Machine
end

section
/-! SUPPORT. The chip after an operation: its contents and its latches (R13, R14, R15). -/

namespace Sys2Proof.Machine

/-- The operation has programmed and erased nothing: array, last-programmed latch and `dirty` are as they were. -/
def FlashChip.sameContents (f g : FlashChip) : Prop :=
  g.lastProgrammed = f.lastProgrammed ∧ g.backing = f.backing ∧ g.dirty = f.dirty

/-- No hook touches the write-protect bit. -/
theorem Controller.writeProtected_writeHook (c : Controller) (w : Window) (addr : Addr) (b : Byte) :
    (c.writeHook w addr b).writeProtected = c.writeProtected := by
  cases c <;> rfl

/-- The chip after a buffer write is the chip before. -/
theorem Controller.flash?_bufferWrite (c : Controller) (buf : BufferName) (o : Nat) (b : Byte) :
    (c.bufferWrite buf o b).flash? = c.flash? := by
  cases c <;> cases buf <;> rfl

/-- A read through a window leaves the chip or is the chip's read, whose byte it returns. -/
theorem Controller.flash?_read {c : Controller} {f : FlashChip} (hf : c.flash? = some f) (w : Window) (addr : Addr)
    (busLast : Byte) (cyc : Cycle) :
    (c.read w addr busLast cyc).2.flash? = some f ∨
    ∃ o, (c.read w addr busLast cyc).1 = (f.read o cyc).1 ∧
      (c.read w addr busLast cyc).2.flash? = some (f.read o cyc).2 := by
  have hook := (c.flash?_hooks w addr 0).1.trans hf
  rcases c.read_cases w addr busLast cyc with ⟨v, h⟩ | ⟨o, f', -, hf', h⟩ <;> rw [h]
  · exact .inl hook
  · cases hf.symm.trans hf'
    exact .inr ⟨o, rfl, Controller.flash?_withFlash _ _ _ hook⟩

/-- A write through a window leaves the chip or is the chip's store, where the window resolves to flash and nothing
write-protects it. -/
theorem Controller.flash?_write {c : Controller} {f : FlashChip} (hf : c.flash? = some f) (w : Window) (addr : Addr)
    (b : Byte) (rmw : Bool) :
    (c.write w addr b rmw).flash? = some f ∨
    ∃ o, (c.writeHook w addr b).resolve w addr .store = .flash o ∧ c.writeProtected = false ∧
      (c.write w addr b rmw).flash? = some (f.store o b rmw) := by
  have hook := (c.flash?_hooks w addr b).2.trans hf
  rcases c.write_cases w addr b rmw with h | ⟨-, h | ⟨buf, o, -, h⟩ | ⟨o, f', hr, hf', hp, h⟩⟩
  · exact .inl ((Controller.configWrite?_keeps h).2.trans hook)
  · exact .inl (h ▸ hook)
  · exact .inl (h ▸ (Controller.flash?_bufferWrite ..).trans hook)
  · cases hf.symm.trans hf'
    rw [Controller.writeProtected_writeHook] at hp
    exact .inr ⟨o, hr, hp, h ▸ Controller.flash?_withFlash _ _ _ hook⟩

/-- What an operation other than C.reset does to the chip: nothing, its reset, a read whose byte it returns, or a store
that it delivers. -/
theorem exec_flash?_cases {i : Instr} {s t : State} {f : FlashChip} (hf : s.ctrl.flash? = some f)
    (hi : ∀ kind, i ≠ .cReset kind) (h : exec i s = .next t) :
    t.ctrl.flash? = some f ∨ t.ctrl.flash? = some f.reset ∨
    (∃ o cyc, t.dataOut = some (f.read o cyc).1 ∧ t.ctrl.flash? = some (f.read o cyc).2) ∨
    ∃ o b rmw, s.deliversStore i o b rmw ∧ t.ctrl.flash? = some (f.store o b rmw) := by
  have put : ∀ g, (s.ctrl.withFlash g).flash? = some g := fun g => s.ctrl.flash?_withFlash f g hf
  cases completes_of_exec h with
  | reset kind he => exact absurd he (hi kind)
  | chipReset f' _ hf' =>
    cases hf.symm.trans hf'
    exact .inr (.inl (put _))
  | chipRead f' a cyc _ hf' =>
    cases hf.symm.trans hf'
    exact .inr (.inr (.inl ⟨a.toNat, cyc, rfl, put _⟩))
  | chipPeek f' a _ hf' =>
    cases hf.symm.trans hf'
    exact .inl (put _)
  | chipStore f' a b rmw _ ht hb hf' =>
    cases hf.symm.trans hf'
    exact .inr (.inr (.inr ⟨a.toNat, b, rmw, ⟨hb, by rw [ht]⟩, put _⟩))
  | busRead addr w busLast cyc _ _ _ =>
    rcases Controller.flash?_read hf w addr busLast cyc with hr | ⟨o, hv, hr⟩
    · exact .inl hr
    · exact .inr (.inr (.inl ⟨o, cyc, congrArg some hv, hr⟩))
  | busWrite addr w b rmw ht hb hw =>
    rcases Controller.flash?_write hf w addr b rmw with hr | ⟨o, hres, hp, hr⟩
    · exact .inl hr
    · exact .inr (.inr (.inr ⟨o, b, rmw, ⟨hb, by rw [ht]; exact ⟨w, hw, hres, hp⟩⟩, hr⟩))

/-- From a state that neither programs nor selects an erase a transition only moves the sequencer. -/
theorem FlashChip.transition_eq_goto {f : FlashChip} (a : Nat) (b : Byte) (hp : f.state ≠ .byteProgram)
    (he : f.state ≠ .eraseSelect) : ∃ q, f.transition a b = f.goto q := by
  rcases f.transition_cases a b with ⟨-, h⟩ | ⟨h, -⟩ | ⟨h, -⟩ | ⟨h, -⟩
  · exact h
  · exact absurd h hp
  · exact absurd h he
  · exact absurd h he

/-- A store that may not alter the array only moves the sequencer. -/
theorem FlashChip.store_eq_goto {f : FlashChip} {a : Nat} {rmw : Bool} (b : Byte) (h : ¬ f.mayAlter a rmw) :
    ∃ q, f.store a b rmw = f.goto q := by
  simp only [FlashChip.mayAlter, not_or, not_and] at h
  obtain ⟨hp, he, hstale⟩ := h
  cases rmw with
  | false => exact FlashChip.transition_eq_goto a b hp he
  | true =>
    obtain ⟨q, hq⟩ := FlashChip.transition_eq_goto a f.lastRead hp he
    obtain ⟨hp', he'⟩ := hstale rfl
    obtain ⟨q', hq'⟩ := FlashChip.transition_eq_goto a b hp' he'
    refine ⟨q', ?_⟩
    rw [FlashChip.store, if_pos rfl, hq', hq]
    rfl

/-- What an operation other than C.reset leaves of the chip: the last-read latch holds what it held or the byte
returned, and the contents are the same but for a store that the operation delivers and that may alter them. -/
theorem exec_latches {i : Instr} {s t : State} {f : FlashChip} (hf : s.ctrl.flash? = some f)
    (hi : ∀ kind, i ≠ .cReset kind) (h : exec i s = .next t) :
    ∃ g, t.ctrl.flash? = some g ∧ (g.lastRead = f.lastRead ∨ t.dataOut = some g.lastRead) ∧
      (f.sameContents g ∨ ∃ o b rmw, s.deliversStore i o b rmw ∧ f.mayAlter o rmw ∧ g = f.store o b rmw) := by
  rcases exec_flash?_cases hf hi h with hg | hg | ⟨o, cyc, hv, hg⟩ | ⟨o, b, rmw, hd, hg⟩
  · exact ⟨f, hg, .inl rfl, .inl ⟨rfl, rfl, rfl⟩⟩
  · exact ⟨f.reset, hg, .inl rfl, .inl ⟨rfl, rfl, rfl⟩⟩
  · exact ⟨(f.read o cyc).2, hg, .inr hv, .inl ⟨rfl, rfl, rfl⟩⟩
  · refine ⟨f.store o b rmw, hg, .inl (f.store_keeps o b rmw).2.1, ?_⟩
    by_cases ha : f.mayAlter o rmw
    · exact .inr ⟨o, b, rmw, hd, ha, rfl⟩
    · obtain ⟨q, hq⟩ := FlashChip.store_eq_goto b ha
      rw [hq]
      exact .inl ⟨rfl, rfl, rfl⟩

end Sys2Proof.Machine
end

section
/-! The statements of 00_scope.md that concern the step, what is fixed and who writes the chip, settled. -/

namespace Sys2Proof.Proofs

open Sys2Proof.Machine

/-- Settles O4, from what one step does with an inbox that decodes. -/
theorem stepRunsDecodedOperation : Obligations.StepRunsDecodedOperation := by
  intro s i rest h
  refine ⟨wellFormed_of_decode h, fun hi => ?_, fun hi => ?_⟩
  · rw [step_of_decode h, if_pos hi]
  · rw [step_of_decode h, if_neg hi]

/-- Settles O59: a step is idle or runs an operation of its caller's, and the inversion of `exec` says what that
operation leaves. -/
theorem stepKeepsFixedParts : Obligations.StepKeepsFixedParts := by
  refine ⟨fun s t h => ?_, fun s t hs h => ?_, fun i s t hi h => exec_host_sameBuffers_or_write hi h⟩
  · rcases step_next h with rfl | ⟨i, rest, -, -, he⟩
    · exact t.ctrl.sameFixed_refl
    · exact exec_sameFixed (s := { s with inbox := rest, caller := .host }) he
  · rcases step_next h with rfl | ⟨i, rest, hd, hi, he⟩
    · exact ⟨hs, .inl t.ctrl.sameBuffers_refl⟩
    · refine ⟨exec_caller he, ?_⟩
      rcases exec_host_sameBuffers_or_write (hi.trans hs) he with hb | ⟨addr, w, b, rmw, ht, hst, hw, rfl⟩
      · exact .inl hb
      · exact .inr ⟨i, rest, addr, w, b, rmw, hd, ht, hst, hw, rfl⟩

/-- Settles O58: C.reset is the one operation that may clear `dirty`; of every other one `exec_latches` says what it
leaves of the chip. -/
theorem latchWriters : Obligations.LatchWriters := by
  intro i s t f hf h
  by_cases hi : ∃ kind, i = .cReset kind
  · obtain ⟨kind, rfl⟩ := hi
    cases h
    have hg : (s.ctrl.reset kind).flash? = some (f.resetBy kind) := by rw [Controller.flash?_reset, hf]; rfl
    refine ⟨f.resetBy kind, hg, ?_⟩
    cases kind <;> simp
  · obtain ⟨g, hg, hread, hc⟩ := exec_latches hf (fun kind he => hi ⟨kind, he⟩) h
    have hdirty : (f.dirty = true → g.dirty = true) ∧
        (g.dirty = false → g.lastProgrammed = f.lastProgrammed ∧ g.backing = f.backing) := by
      rcases hc with ⟨hp, hb, hd⟩ | ⟨o, b, rmw, -, -, rfl⟩
      · exact ⟨hd.trans, fun _ => ⟨hp, hb⟩⟩
      · exact (f.store_keeps o b rmw).2.2
    exact ⟨g, hg, fun hd _ => hdirty.1 hd, hdirty.2, fun he => absurd ⟨_, he⟩ hi, fun _ => hread,
      hc.imp_left fun ⟨hp, hb, hd⟩ => ⟨hp, hb, fun _ => hd⟩⟩

end Sys2Proof.Proofs
end

section
/-! SUPPORT. Every offset that `resolve` gives lies inside the buffer it names (R63, R181). -/

namespace Sys2Proof.Machine

/-- The offset of a resolution lies inside the buffer it names, and the controller has that buffer. -/
def Resolution.inRange (c : Controller) : Resolution → Prop
  | .disabled => True
  | .flash o => ∃ f, c.flash? = some f ∧ o < f.geometry.size
  | .rom o => ∃ m, c = .megaCart m ∧ o < m.rom.size
  | .ram buf o => o < c.bufferSize buf
  | .ramReadOnly buf o => o < c.bufferSize buf

/-- UltiMem resolves in range: each mode masks to the length of the buffer it selects (R217, R218). -/
theorem UltiMem.resolve_inRange (u : UltiMem) (w : Window) (addr : Addr) :
    (u.resolve w addr).inRange (.ultiMem u) := by
  unfold UltiMem.resolve
  cases u.mode w with
  | disabled => trivial
  | flash => exact ⟨u.flash, rfl, compose_lt ..⟩
  | ramReadOnly | ramReadWrite => exact compose_lt ..

/-- The Final Expansion resolves in range: each cell of the mode table masks to the length of its buffer (R248). -/
theorem FinalExpansion.resolve_inRange (e : FinalExpansion) (w : Window) (addr : Addr) (dir : Direction) :
    (e.resolve w addr dir).inRange (.finalExpansion e) := by
  unfold FinalExpansion.resolve
  cases feBlockOf w with
  | none => trivial
  | some b =>
    simp only [FinalExpansion.resolveBlock]
    split
    · trivial
    · cases feModeTable e.table e.mode b (e.flag b) e.bank dir with
      | off => trivial
      | flashBank k => exact ⟨e.flash, rfl, compose_lt ..⟩
      | ramBank k | ramBankRO k => exact compose_lt ..

/-- The two halves of MegaCart's ROM, its RAM and its NVRAM resolve in range (R286, R287). -/
theorem MegaCart.buffers_inRange (m : MegaCart) (addr : Addr) :
    (m.lowRom addr).inRange (.megaCart m) ∧ (m.highRom addr).inRange (.megaCart m) ∧
    (∀ base, (m.ramAt base addr).inRange (.megaCart m)) ∧ (m.nvramWindow addr).inRange (.megaCart m) := by
  refine ⟨⟨m, rfl, compose_lt ..⟩, ⟨m, rfl, compose_lt ..⟩, fun base => ?_, ?_⟩
  · simp only [MegaCart.ramAt]
    split <;> exact compose_lt ..
  · unfold MegaCart.nvramWindow
    split
    · exact compose_lt ..
    · trivial

/-- MegaCart resolves in range, whichever buffer the enables select (R285). -/
theorem MegaCart.resolve_inRange (m : MegaCart) (w : Window) (addr : Addr) :
    (m.resolve w addr).inRange (.megaCart m) := by
  obtain ⟨hlow, hhigh, hram, hnvram⟩ := m.buffers_inRange addr
  have lowBlock : ∀ base, (m.lowBlock base addr).inRange (.megaCart m) := fun base => by
    unfold MegaCart.lowBlock
    split
    · exact hlow
    · split
      · exact hram base
      · trivial
  have highBlock : (m.highBlock addr).inRange (.megaCart m) := by
    unfold MegaCart.highBlock
    split
    · exact hhigh
    · split
      · exact hlow
      · exact hram 0x6000
  cases w with
  | blk1 | blk2 | blk3 => exact lowBlock _
  | blk5 => exact highBlock
  | ram123 | io2 | io3 => exact hnvram

/-- The VIC Flash Plugin resolves in range (R316, R317). -/
theorem VicFlash.resolve_inRange (v : VicFlash) (w : Window) (addr : Addr) :
    (v.resolve w addr).inRange (.vicFlash v) := by
  have ram : ∀ base, (v.ramAt base addr).inRange (.vicFlash v) := fun base => compose_lt ..
  cases w with
  | ram123 | blk1 =>
    simp only [VicFlash.resolve]
    split
    · exact ram _
    · trivial
  | blk5 =>
    simp only [VicFlash.resolve]
    split
    · exact ram _
    · exact ⟨v.flash, rfl, compose_lt ..⟩
  | blk2 | blk3 | io2 | io3 => trivial

/-- Every controller resolves in range (R63, R181). -/
theorem Controller.resolve_inRange (c : Controller) (w : Window) (addr : Addr) (dir : Direction) :
    (c.resolve w addr dir).inRange c := by
  cases c with
  | ultiMem u => exact u.resolve_inRange w addr
  | finalExpansion e => exact e.resolve_inRange w addr dir
  | megaCart m => exact m.resolve_inRange w addr
  | vicFlash v => exact v.resolve_inRange w addr

/-- An offset resolved into a read-write buffer is below its length. -/
theorem Controller.lt_of_resolve_ram {c : Controller} {w : Window} {addr : Addr} {dir : Direction} {buf : BufferName}
    {o : Nat} (hr : c.resolve w addr dir = .ram buf o) : o < c.bufferSize buf := by
  have h := c.resolve_inRange w addr dir
  rw [hr] at h
  exact h

/-- An offset resolved into flash is below the size of the chip. -/
theorem Controller.lt_of_resolve_flash {c : Controller} {w : Window} {addr : Addr} {dir : Direction} {f : FlashChip}
    {o : Nat} (hf : c.flash? = some f) (hr : c.resolve w addr dir = .flash o) : o < f.geometry.size := by
  have h := c.resolve_inRange w addr dir
  rw [hr] at h
  obtain ⟨g, hg, ho⟩ := h
  cases hf.symm.trans hg
  exact ho

end Sys2Proof.Machine
end

section
/-! SUPPORT. Every operation keeps a controller well-formed (R12, R63, R214, R315). -/

namespace Sys2Proof.Machine

/-- A read through a window keeps a controller well-formed. -/
theorem Controller.wf_read {c : Controller} (h : c.wf) (w : Window) (addr : Addr) (busLast : Byte) (cyc : Cycle) :
    (c.read w addr busLast cyc).2.wf := by
  have hook := (c.wf_hooks w addr 0 h).1
  rcases c.read_cases w addr busLast cyc with ⟨v, hc⟩ | ⟨o, f, -, hf, hc⟩ <;> rw [hc]
  · exact hook
  · obtain ⟨wf, put⟩ := Controller.wf_flash _ f hook ((c.flash?_hooks w addr 0).1.trans hf)
    exact put _ (f.wf_read o cyc wf)

/-- A write through a window keeps a controller well-formed: what it stores lies inside the buffer (R63). -/
theorem Controller.wf_write {c : Controller} (h : c.wf) (w : Window) (addr : Addr) (b : Byte) (rmw : Bool) :
    (c.write w addr b rmw).wf := by
  have hook := (c.wf_hooks w addr b h).2
  rcases c.write_cases w addr b rmw with hc | ⟨-, hc | ⟨buf, o, hr, hc⟩ | ⟨o, f, hr, hf, -, hc⟩⟩
  · exact Controller.wf_configWrite _ _ addr b hook hc
  · rw [hc]
    exact hook
  · rw [hc]
    exact Controller.wf_bufferWrite _ buf o b hook (Controller.lt_of_resolve_ram hr)
  · have hf' := (c.flash?_hooks w addr b).2.trans hf
    obtain ⟨wf, put⟩ := Controller.wf_flash _ f hook hf'
    rw [hc]
    exact put _ (f.wf_store o b rmw wf (Controller.lt_of_resolve_flash hf' hr))

/-- A store at an offset of the chip completes only inside the chip (R107). -/
theorem lt_size_of_exec_store {i : Instr} {s t : State} {f : FlashChip} {a : Offset} {b : Byte} {rmw : Bool}
    (hf : s.ctrl.flash? = some f) (ha : i.target = .offset a) (hb : i.stored? = some (b, rmw))
    (h : exec i s = .next t) : a.toNat < f.geometry.size := by
  rw [(exec_of_target_offset i a b rmw s ha hb).2] at h
  rcases onFlash_cases s a fun f o => (none, f.store o b rmw) with ⟨-, hr⟩ | ⟨g, hg, ⟨hlt, -⟩ | ⟨-, hr⟩⟩
  · cases hr.symm.trans h
  · cases hf.symm.trans hg
    exact hlt
  · cases hr.symm.trans h

/-- Every operation that completes keeps the invariant. -/
theorem exec_keeps_inv {i : Instr} {s t : State} (hs : s.Inv) (h : exec i s = .next t) : t.Inv := by
  have chip := fun f => s.ctrl.wf_flash f hs
  cases completes_of_exec h with
  | reset kind _ => exact s.ctrl.wf_reset kind hs
  | chipReset f _ hf => exact (chip f hf).2 _ (chip f hf).1
  | chipRead f a cyc _ hf => exact (chip f hf).2 _ (f.wf_read a.toNat cyc (chip f hf).1)
  | chipPeek f a _ hf => exact (chip f hf).2 _ (chip f hf).1
  | chipStore f a b rmw _ ha hb hf =>
    exact (chip f hf).2 _ (f.wf_store a.toNat b rmw (chip f hf).1 (lt_size_of_exec_store hf ha hb h))
  | busRead addr w busLast cyc _ _ _ => exact Controller.wf_read hs w addr busLast cyc
  | busWrite addr w b rmw _ _ _ => exact Controller.wf_write hs w addr b rmw

end Sys2Proof.Machine
end

section
/-! SUPPORT. A canonical memory is determined by what it reads as (10_state section 1). -/

namespace Sys2Proof.Machine

/-- The canonical form, entry by entry. -/
theorem Memory.wf_cons (k : Nat) (v : Byte) (m : Memory) :
    Memory.wf ((k, v) :: m) ↔ (∀ c ∈ m, k < c.1) ∧ v ≠ Config.unlisted ∧ m.wf := by
  simp only [Memory.wf, List.pairwise_cons, List.forall_mem_cons]
  tauto

/-- The first entry is read at its own address. -/
theorem Memory.byteAt_head (k : Nat) (v : Byte) (m : Memory) : Memory.byteAt ((k, v) :: m) k = v := by
  simp [Memory.byteAt]

/-- Of a canonical memory the first entry has the lowest address that reads other than unlisted. -/
theorem Memory.head_le {k a : Nat} {v : Byte} {m : Memory} (h : Memory.wf ((k, v) :: m))
    (ha : Memory.byteAt ((k, v) :: m) a ≠ Config.unlisted) : k ≤ a := by
  obtain ⟨hk, -, -⟩ := (Memory.wf_cons k v m).1 h
  by_contra hlt
  refine ha (Memory.byteAt_of_lt _ a fun c hc => ?_)
  rcases List.mem_cons.1 hc with rfl | hc
  · exact Nat.lt_of_not_le hlt
  · exact (Nat.lt_of_not_le hlt).trans (hk c hc)

/-- What the entries after the first read as, in a canonical memory. -/
theorem Memory.byteAt_tail {k : Nat} {v : Byte} {m : Memory} (h : Memory.wf ((k, v) :: m)) (a : Nat) :
    m.byteAt a = if a = k then Config.unlisted else Memory.byteAt ((k, v) :: m) a := by
  obtain ⟨hk, -, -⟩ := (Memory.wf_cons k v m).1 h
  split
  · rename_i he
    exact Memory.byteAt_of_lt m a (he ▸ hk)
  · rename_i hne
    simp [Memory.byteAt, Ne.symm hne]

/-- Only the empty one of the canonical memories reads unlisted everywhere. -/
theorem Memory.eq_nil_of_byteAt {m : Memory} (h : m.wf) (hr : ∀ a, m.byteAt a = Config.unlisted) : m = [] := by
  cases m with
  | nil => rfl
  | cons c m =>
    obtain ⟨k, v⟩ := c
    obtain ⟨-, hv, -⟩ := (Memory.wf_cons k v m).1 h
    exact absurd ((Memory.byteAt_head k v m).symm.trans (hr k)) hv

/-- Canonical memories that read alike are equal: their first entries are the lowest listed address with its byte, and
the rest of the two read alike again. -/
theorem Memory.eq_of_byteAt {m n : Memory} (hm : m.wf) (hn : n.wf) (hr : ∀ a, m.byteAt a = n.byteAt a) : m = n := by
  induction m generalizing n with
  | nil => exact (Memory.eq_nil_of_byteAt hn fun a => (hr a).symm).symm
  | cons c m ih =>
    cases n with
    | nil => exact Memory.eq_nil_of_byteAt hm hr
    | cons d n =>
      obtain ⟨k, v⟩ := c
      obtain ⟨l, u⟩ := d
      obtain ⟨-, hv, hm'⟩ := (Memory.wf_cons k v m).1 hm
      obtain ⟨-, hu, hn'⟩ := (Memory.wf_cons l u n).1 hn
      have hl : Memory.byteAt ((l, u) :: n) k = v := (hr k).symm.trans (Memory.byteAt_head k v m)
      have hk : Memory.byteAt ((k, v) :: m) l = u := (hr l).trans (Memory.byteAt_head l u n)
      obtain rfl : k = l := Nat.le_antisymm (Memory.head_le hm (hk ▸ hu)) (Memory.head_le hn (hl ▸ hv))
      obtain rfl : u = v := (Memory.byteAt_head k u n).symm.trans hl
      have tails : ∀ a, Memory.byteAt m a = Memory.byteAt n a := fun a => by
        rw [Memory.byteAt_tail hm, Memory.byteAt_tail hn, hr a]
      rw [ih hm' hn' tails]

end Sys2Proof.Machine
end

section
/-! SUPPORT. The invariant right after attach, and what a controller reset does to the chip (R16, R354, R361). -/

namespace Sys2Proof.Machine

/-- A blank buffer is well-formed, whatever its length. -/
theorem Buffer.wf_blank (n : Nat) : Buffer.wf ⟨n, []⟩ := ⟨Memory.wf_nil, by simp⟩

/-- A blank chip is well-formed where its geometry is. -/
theorem FlashChip.wf_powerOn {g : Geometry} (hg : g.wf) : (FlashChip.powerOn g).wf :=
  ⟨hg, Memory.wf_nil, by simp [FlashChip.powerOn]⟩

/-- Each variant right after attach with the default parameters is well-formed. -/
theorem Controller.wf_powerOn (v : Variant) : (Controller.powerOn v).wf := by
  cases v with
  | ultiMem => exact ⟨Buffer.wf_blank _, FlashChip.wf_powerOn (by decide), by decide, by decide⟩
  | finalExpansion => exact ⟨Buffer.wf_blank _, FlashChip.wf_powerOn (by decide)⟩
  | megaCart => exact ⟨Buffer.wf_blank _, Buffer.wf_blank _, Buffer.wf_blank _⟩
  | vicFlash => exact ⟨Buffer.wf_blank _, FlashChip.wf_powerOn (by decide), by decide⟩

/-- What a controller reset does to the chip, by kind (R13, R15, R354). -/
theorem FlashChip.resetBy_eq (f : FlashChip) (kind : ResetKind) :
    f.resetBy kind =
      if kind = .powerOn then { f with state := .read, lastRead := 0x00, dirty := false }
      else { f with state := .read } := by
  cases kind <;> rfl

/-- What a reset of a MegaCart does, by kind (R291, R368). -/
theorem MegaCart.reset_eq (m : MegaCart) (kind : ResetKind) :
    m.reset kind =
      if kind = .software then { m with outputEnable := !m.outputEnable }
      else { m with outputEnable := false, bankLow := 0x00, bankHigh := 0x00, nvramEnable := true } := by
  cases kind <;> rfl

/-- C.reset completes in every state, as the reset of the controller (R193). -/
theorem exec_cReset (kind : ResetKind) (s : State) :
    exec (.cReset kind) s = .next (s.answer none (s.ctrl.reset kind)) := rfl

end Sys2Proof.Machine
end

section
/-! The statements of 10_state.md that concern the invariant, memories and controller resets, settled. -/

namespace Sys2Proof.Proofs

open Sys2Proof.Machine

/-- Settles O3: a step is idle or runs an operation, and every operation keeps the invariant. -/
theorem stepKeepsInvariant : Obligations.StepKeepsInvariant := by
  intro s s' hs h
  rcases step_next h with rfl | ⟨i, rest, -, -, he⟩
  · exact hs
  · exact exec_keeps_inv (s := { s with inbox := rest, caller := .host }) hs he

/-- Settles O9: canonical memories are determined entry by entry by what they read as. -/
theorem canonicalMemoriesAreEqual : Obligations.CanonicalMemoriesAreEqual :=
  fun _ _ hm hn hr => Memory.eq_of_byteAt hm hn hr

/-- Settles O2: the reset state is the attached state of an UltiMem. -/
theorem resetMeetsInvariant : Obligations.ResetMeetsInvariant := Controller.wf_powerOn .ultiMem

/-- Settles O56, from what C.reset does to the chip and to a MegaCart by kind; at POWER_ON attach over the same buffers
ends in the same reset. -/
theorem controllerResets : Obligations.ControllerResets := by
  rintro ⟨c, inbox, out, caller⟩ kind chip
  have hchip : chip = fun f => f.resetBy kind := funext fun f => (f.resetBy_eq kind).symm
  clear_value chip
  subst hchip
  refine ⟨?_, ?_, ?_, ?_, ?_⟩
  · rintro u rfl
    exact exec_cReset kind _
  · rintro e rfl
    exact exec_cReset kind _
  · rintro m rfl
    rw [← MegaCart.reset_eq]
    exact exec_cReset kind _
  · rintro v rfl
    exact exec_cReset kind _
  · cases c <;> exact exec_cReset .powerOn _

end Sys2Proof.Proofs
end

section
/-! SUPPORT. The ranges of the windows, and the addresses at which a controller access completes (R56, R57). -/

namespace Sys2Proof

/-- The addresses of a window (R56). -/
def Window.contains (w : Window) (n : Nat) : Prop :=
  match w with
  | .ram123 => 0x0400 ≤ n ∧ n ≤ 0x0FFF
  | .blk1 => 0x2000 ≤ n ∧ n ≤ 0x3FFF
  | .blk2 => 0x4000 ≤ n ∧ n ≤ 0x5FFF
  | .blk3 => 0x6000 ≤ n ∧ n ≤ 0x7FFF
  | .blk5 => 0xA000 ≤ n ∧ n ≤ 0xBFFF
  | .io2 => 0x9800 ≤ n ∧ n ≤ 0x9BFF
  | .io3 => 0x9C00 ≤ n ∧ n ≤ 0x9FFF

end Sys2Proof

namespace Sys2Proof.Machine

/-- The addresses a variant answers at, its windows joined into ranges (R57). -/
def Controller.answersAt (c : Controller) (n : Nat) : Prop :=
  match c with
  | .ultiMem _ | .megaCart _ =>
    ((0x0400 ≤ n ∧ n ≤ 0x0FFF) ∨ (0x2000 ≤ n ∧ n ≤ 0x7FFF) ∨ (0xA000 ≤ n ∧ n ≤ 0xBFFF)) ∨ (0x9800 ≤ n ∧ n ≤ 0x9FFF)
  | .finalExpansion _ =>
    ((0x0400 ≤ n ∧ n ≤ 0x0FFF) ∨ (0x2000 ≤ n ∧ n ≤ 0x7FFF) ∨ (0xA000 ≤ n ∧ n ≤ 0xBFFF)) ∨ (0x9C00 ≤ n ∧ n ≤ 0x9FFF)
  | .vicFlash _ =>
    (0x0400 ≤ n ∧ n ≤ 0x0FFF) ∨ (0x2000 ≤ n ∧ n ≤ 0x3FFF) ∨ (0xA000 ≤ n ∧ n ≤ 0xBFFF) ∨ (0x9800 ≤ n ∧ n ≤ 0x9BFF)

/-- `windowOf` finds a window exactly at the addresses of its range. -/
theorem windowOf_eq_some_iff (addr : Addr) (w : Window) :
    windowOf addr = some w ↔ w.contains addr.toNat := by
  obtain ⟨hram123, hblk1, hblk2, hblk3, hblk5, hio2, hio3⟩ := windowOf_iff addr
  cases w <;> assumption

/-- A window of the variant lies within the addresses the variant answers at, any other window outside them. -/
theorem Controller.claims_iff_answersAt {n : Nat} {w : Window} (c : Controller) (hw : w.contains n) :
    c.claims w = true ↔ c.answersAt n := by
  cases c with
  | ultiMem _ | megaCart _ =>
    simp only [Controller.claims, Controller.answersAt, true_iff]
    cases w <;> simp only [Window.contains] at hw <;> omega
  | finalExpansion _ | vicFlash _ =>
    simp only [Controller.claims, Controller.answersAt]
    cases w <;> simp only [Window.contains] at hw <;> simp <;> omega

/-- Every address a variant answers at lies in some window. -/
theorem Controller.exists_window_of_answersAt {n : Nat} {c : Controller} (h : c.answersAt n) :
    ∃ w : Window, w.contains n := by
  by_contra hn
  have outside := not_exists.1 hn
  have ram123 := outside .ram123
  have blk1 := outside .blk1
  have blk2 := outside .blk2
  have blk3 := outside .blk3
  have blk5 := outside .blk5
  have io2 := outside .io2
  have io3 := outside .io3
  simp only [Window.contains] at ram123 blk1 blk2 blk3 blk5 io2 io3
  cases c <;> simp only [Controller.answersAt] at h <;> omega

/-- Which window of the variant an address lies in, by ranges. -/
theorem Controller.window?_eq_some_iff (c : Controller) (addr : Addr) (w : Window) :
    c.window? addr = some w ↔ c.answersAt addr.toNat ∧ w.contains addr.toNat := by
  rw [c.window?_eq_some, windowOf_eq_some_iff]
  constructor
  · rintro ⟨hw, hc⟩
    exact ⟨(c.claims_iff_answersAt hw).1 hc, hw⟩
  · rintro ⟨ha, hw⟩
    exact ⟨hw, (c.claims_iff_answersAt hw).2 ha⟩

/-- An operation at a CPU address completes where the variant answers and is refused everywhere else (R340). -/
theorem onWindow_outcome (s : State) (addr : Addr) (op : Window → Option Byte × Controller) :
    (s.ctrl.answersAt addr.toNat → ∃ t, onWindow s addr op = .next t) ∧
    (¬ s.ctrl.answersAt addr.toNat → onWindow s addr op = .refused .outsideWindows) := by
  rcases onWindow_cases s addr op with ⟨hnone, hr⟩ | ⟨w, hw, hn⟩
  · refine ⟨fun ha => ?_, fun _ => hr⟩
    obtain ⟨w, hw⟩ := Controller.exists_window_of_answersAt ha
    cases hnone.symm.trans ((s.ctrl.window?_eq_some_iff addr w).2 ⟨ha, hw⟩)
  · exact ⟨fun _ => ⟨_, hn⟩, fun ha => absurd ((s.ctrl.window?_eq_some_iff addr w).1 hw).1 ha⟩

/-- The four controller accesses are operations at a CPU address. -/
theorem exists_onWindow_of_controller_access {i : Instr} {addr : Addr} {busLast b : Byte} {cyc : Cycle} {rmw : Bool}
    (s : State) (hi : i ∈ [Instr.cRead addr busLast cyc, .cWrite addr b rmw, .cConfigRead addr busLast cyc,
      .cConfigWrite addr b rmw]) : ∃ op, exec i s = onWindow s addr op := by
  simp only [List.mem_cons, List.not_mem_nil, or_false] at hi
  rcases hi with rfl | rfl | rfl | rfl <;> exact ⟨_, rfl⟩

end Sys2Proof.Machine
end

section
/-! SUPPORT. A byte stored through a window that resolves to RAM or NVRAM, and the read that returns it (R64). -/

namespace Sys2Proof.Machine

/-- Controllers that hold the same buffers return the same bytes of them. -/
theorem Controller.bufferByte_of_sameBuffers {c d : Controller} (h : c.sameBuffers d) (buf : BufferName) (o : Nat) :
    d.bufferByte buf o = c.bufferByte buf o := by
  -- a premise between two variants is False, so only the four cases of one variant are left
  cases c <;> cases d <;> cases h
  all_goals cases buf <;> simp_all [Controller.bufferByte]

/-- A store where no register answers, in a window that resolves to a read-write buffer, writes that buffer (R187). -/
theorem Controller.write_of_resolve_ram {c : Controller} {w : Window} {addr : Addr} {b : Byte} {buf : BufferName}
    {o : Nat} (hc : (c.writeHook w addr b).configWrite? addr b = none)
    (hr : (c.writeHook w addr b).resolve w addr .store = .ram buf o) (rmw : Bool) :
    c.write w addr b rmw = (c.writeHook w addr b).bufferWrite buf o b := by
  simp only [Controller.write, hc, hr, Controller.writeResolved]

/-- A load where no register answers, in a window that resolves to a buffer, returns the byte of the buffer (R184): the
hook before it leaves the buffers. -/
theorem Controller.read_of_resolve_buffer {c : Controller} {w : Window} {addr : Addr} {busLast : Byte}
    {buf : BufferName} {o : Nat} (hc : (c.readHook w).configRead? addr busLast = none)
    (hr : (c.readHook w).resolve w addr .load = .ram buf o ∨ (c.readHook w).resolve w addr .load = .ramReadOnly buf o)
    (cyc : Cycle) : (c.read w addr busLast cyc).1 = c.bufferByte buf o := by
  rw [← Controller.bufferByte_of_sameBuffers (c.sameBuffers_readHook w)]
  rcases hr with hr | hr <;> simp only [Controller.read, hc, hr, Controller.readResolved]

end Sys2Proof.Machine
end

section
/-! SUPPORT. What the parts of an UltiMem resolution are in arithmetic: mode field, bank pair, line inversion
and the offset (R212, R213, R218, R219). -/

namespace Sys2Proof.Machine

/-- A 2-bit field of a register byte. -/
theorem toNat_field (r : Byte) (k : Nat) : (r.extractLsb' k 2).toNat = r.toNat / 2 ^ k % 4 := by
  rw [BitVec.extractLsb'_toNat, Nat.shiftRight_eq_div_pow]

/-- A bank number is its two bytes put together (R213). -/
theorem bankPair_eq (hi lo : Byte) : bankPair hi lo = 256 * hi.toNat + lo.toNat := by
  rw [bankPair, ← Nat.shiftLeft_add_eq_or_of_lt lo.isLt, Nat.shiftLeft_eq]
  omega

/-- No inversion requested changes no bit (R219). -/
theorem lineInversion_none : lineInversion ⟨false, false⟩ = 0 := by decide

/-- A line inversion is one of the four settings of bits 13 and 14 (R219). -/
theorem lineInversion_mem (l : LineInversion) : lineInversion l ∈ [0x0000, 0x2000, 0x4000, 0x6000] := by
  obtain ⟨a13, a14⟩ := l
  cases a13 <;> cases a14 <;> decide

/-- What a window resolves to, by the value of its mode field (R212, R217). -/
theorem UltiMem.resolve_of_mode {u : UltiMem} {w : Window} {x : BitVec 2} (h : u.mode w = umModeOfBits x)
    (addr : Addr) : u.resolve w addr =
      if x.toNat = 0 then .disabled
      else if x.toNat = 1 then .flash (u.offset w addr u.flash.geometry.size)
      else if x.toNat = 2 then .ramReadOnly .ram (u.offset w addr u.ram.size)
      else .ram .ram (u.offset w addr u.ram.size) := by
  rw [UltiMem.resolve, h]
  match x with
  | 0#2 | 1#2 | 2#2 | 3#2 => rfl

/-- The offset of a window into a buffer whose length is a power of two (R218). -/
theorem UltiMem.offset_two_pow (u : UltiMem) (w : Window) (addr : Addr) (k : Nat) : u.offset w addr (2 ^ k) =
    ((addr.toNat % 0x2000 + u.bank w * 0x2000 + u.params.base.ofWindow w) ^^^ lineInversion u.inversion) % 2 ^ k :=
  compose_two_pow ..

end Sys2Proof.Machine
end

section
/-! The statements of 20_memory.md, settled. -/

namespace Sys2Proof.Proofs

open Sys2Proof.Machine

/-- Settles O34: the windows of a variant are the ranges it answers at, and a controller access is an operation at its
CPU address. -/
theorem accessCompletesInWindows : Obligations.AccessCompletesInWindows := by
  intro s addr busLast b cyc rmw n inBlocks claimed range
  have hclaimed : claimed ↔ s.ctrl.answersAt n := by
    obtain ⟨c, inbox, out, caller⟩ := s
    cases c <;> rfl
  have hrange : ∀ w, range w ↔ w.contains n := fun w => by cases w <;> rfl
  refine ⟨fun w => ?_, fun i hi => ?_⟩
  · rw [hclaimed, hrange]
    exact s.ctrl.window?_eq_some_iff addr w
  · obtain ⟨op, hop⟩ := exists_onWindow_of_controller_access s hi
    obtain ⟨completes, refused⟩ := onWindow_outcome s addr op
    rw [hop, hclaimed]
    exact ⟨completes, refused, fun kind => ⟨_, rfl⟩⟩

/-- Settles O37: the store leaves the controller with its byte in the buffer, and the load returns the byte of that
buffer. -/
theorem storedByteIsReadBack : Obligations.StoredByteIsReadBack := by
  intro s t addr addr' w w' b busLast rmw cyc buf o hinv hw hcw hrw ht hw' hcr hrr
  have hstore : exec (.cWrite addr b rmw) s =
      .next (s.answer none ((s.ctrl.writeHook w addr b).bufferWrite buf o b)) := by
    rw [← Controller.write_of_resolve_ram hcw hrw rmw]
    exact onWindow_eq s addr w _ hw
  cases hstore.symm.trans ht
  refine ⟨_, onWindow_eq _ addr' w' _ hw', congrArg some ?_⟩
  rw [Controller.read_of_resolve_buffer hcr hrr, State.answer_ctrl,
    Controller.bufferByte_bufferWrite _ _ _ _ _ (s.ctrl.wf_hooks w addr b hinv).2, if_pos rfl]

/-- Settles O42: every controller resolves in range. -/
theorem resolutionInRange : Obligations.ResolutionInRange := by
  intro c w addr dir
  have h := c.resolve_inRange w addr dir
  generalize c.resolve w addr dir = r at h ⊢
  cases r <;> exact h

/-- Settles O44: the direction plays no part, and field, bank and inversion are those of the window. -/
theorem ultiMemResolution : Obligations.UltiMemResolution := by
  intro u w addr field bank inv hfield hbank hinv offset
  have mode : ∃ x : BitVec 2, u.mode w = umModeOfBits x ∧ x.toNat = field := by
    rw [hfield]
    cases w <;> refine ⟨_, rfl, ?_⟩
    all_goals
      rw [toNat_field]
      dsimp only
      omega
  have bankEq : u.bank w = bank := by
    rw [hbank]
    cases w <;> exact bankPair_eq ..
  have invEq : lineInversion u.inversion = inv := by
    rw [hinv, UltiMem.inversion]
    cases u.params.inversion with
    | none => exact lineInversion_none
    | other k => rfl
  have offsetEq : ∀ k, u.offset w addr (2 ^ k) = offset (2 ^ k) := fun k => by
    rw [u.offset_two_pow, bankEq, invEq]
  obtain ⟨x, hmode, rfl⟩ := mode
  refine ⟨invEq ▸ lineInversion_mem _, rfl, ?_⟩
  calc u.resolve w addr
      _ = _ := UltiMem.resolve_of_mode hmode addr
      _ = _ := by simp only [Geometry.size, Buffer.size, offsetEq]

end Sys2Proof.Proofs
end

section
/-! SUPPORT. The bus operations of the chip, said once: what each answers at an offset inside the chip, what a read
returns and leaves in each state, and what a store does in BYTE_PROGRAM (R100 to R110, R130). -/

namespace Sys2Proof.Machine

/-! ## The chip after an operation -/

/-- A state with a chip has the chip it is given. -/
theorem State.flash?_withChip {s : State} {f : FlashChip} (hf : s.ctrl.flash? = some f) (g : FlashChip)
    (out : Option Byte) : (s.withChip g out).ctrl.flash? = some g :=
  s.ctrl.flash?_withFlash f g hf

/-- Of two answers of the chip the later one stands. -/
@[simp] theorem State.withChip_withChip (s : State) (g h : FlashChip) (out out' : Option Byte) :
    (s.withChip g out).withChip h out' = s.withChip h out' :=
  congrArg (s.answer out') (s.ctrl.withFlash_withFlash g h)

/-- Putting the chip of a state back changes nothing but the byte returned. -/
theorem State.withChip_self {s : State} {f : FlashChip} (hf : s.ctrl.flash? = some f) (out : Option Byte) :
    s.withChip f out = { s with dataOut := out } :=
  congrArg (s.answer out) (s.ctrl.withFlash_self f hf)

@[simp] theorem FlashChip.goto_byteAt (f : FlashChip) (q : SeqState) (o : Nat) : (f.goto q).byteAt o = f.byteAt o := rfl

/-! ## What a read returns and leaves -/

/-- The four cases of a read in AUTOSELECT, by the offset modulo 256 (R86, R102). -/
theorem FlashChip.autoselectByte_eq (f : FlashChip) (a : Nat) :
    f.autoselectByte a = if a % 256 = 0 then f.geometry.manufacturerId else if a % 256 = 1 then f.geometry.deviceId
      else if a % 256 = 2 then 0x00 else f.byteAt a := by
  have low : a &&& 0xFF = a % 256 := Nat.and_two_pow_sub_one_eq_mod a 8
  unfold FlashChip.autoselectByte
  rw [low]
  split
  case h_4 h0 h1 h2 => rw [if_neg h0, if_neg h1, if_neg h2]
  all_goals simp [*]

theorem FlashChip.readByte_autoselect {f : FlashChip} (h : f.state = .autoselect) (a : Nat) (cyc : Cycle) :
    f.readByte a cyc = f.autoselectByte a := by
  simp only [FlashChip.readByte, h]

theorem FlashChip.readByte_programError {f : FlashChip} (h : f.state = .byteProgramError) (a : Nat) (cyc : Cycle) :
    f.readByte a cyc = statusByte f.lastProgrammed cyc := by
  simp only [FlashChip.readByte, h]

/-- Outside AUTOSELECT and BYTE_PROGRAM_ERROR a read returns array data (R104, R105). -/
theorem FlashChip.readByte_array {f : FlashChip} (ha : f.state ≠ .autoselect) (he : f.state ≠ .byteProgramError)
    (a : Nat) (cyc : Cycle) : f.readByte a cyc = f.byteAt a := by
  unfold FlashChip.readByte
  split
  · exact absurd ‹_› ha
  · exact absurd ‹_› he
  · rfl

/-! ## What each bus operation answers -/

theorem exec_fReset {s : State} {f : FlashChip} (hf : s.ctrl.flash? = some f) :
    exec .fReset s = .next (s.withChip f.reset none) := by
  change execFReset s = _
  simp only [execFReset, hf]
  rfl

/-- F.read returns and latches the byte of the state, and moves the sequencer as the state says (R106). -/
theorem exec_fRead {s : State} {f : FlashChip} {a : Offset} (hf : s.ctrl.flash? = some f)
    (ha : a.toNat < f.geometry.size) (cyc : Cycle) :
    exec (.fRead a cyc) s = .next (s.withChip
      { f with state := f.state.afterRead, lastRead := f.readByte a.toNat cyc } (some (f.readByte a.toNat cyc))) := by
  change execFRead a cyc s = _
  exact onFlash_eq s f a _ hf ha

theorem exec_fStore {s : State} {f : FlashChip} {a : Offset} (hf : s.ctrl.flash? = some f)
    (ha : a.toNat < f.geometry.size) (b : Byte) :
    exec (.fStore a b) s = .next (s.withChip (f.transition a.toNat b) none) := by
  change execFStore a b s = _
  exact onFlash_eq s f a _ hf ha

/-- A read-modify-write store is a transition with the stale byte and one with the real byte (R108). -/
theorem exec_fStoreRmw {s : State} {f : FlashChip} {a : Offset} (hf : s.ctrl.flash? = some f)
    (ha : a.toNat < f.geometry.size) (b : Byte) :
    exec (.fStoreRmw a b) s =
      .next (s.withChip ((f.transition a.toNat f.lastRead).transition a.toNat b) none) := by
  change execFStoreRmw a b s = _
  exact onFlash_eq s f a _ hf ha

theorem exec_fPeek {s : State} {f : FlashChip} {a : Offset} (hf : s.ctrl.flash? = some f)
    (ha : a.toNat < f.geometry.size) :
    exec (.fPeek a) s = .next (s.withChip f (some (f.byteAt a.toNat))) := by
  change execFPeek a s = _
  exact onFlash_eq s f a _ hf ha

/-! ## A store in BYTE_PROGRAM -/

theorem FlashChip.transition_byteProgram {f : FlashChip} (h : f.state = .byteProgram) (a : Nat) (b : Byte) :
    f.transition a b = f.programCycle a b := by
  simp only [FlashChip.transition, h]

/-- PROGRAM_DATA in BYTE_PROGRAM is the program cycle: the row is the store of its byte (R130). -/
theorem exec_programData {s : State} {f : FlashChip} {a : Offset} (hf : s.ctrl.flash? = some f)
    (ha : a.toNat < f.geometry.size) (hq : f.state = .byteProgram) (b : Byte) :
    exec (.programData a b) s = .next (s.withChip (f.programCycle a.toNat b) none) := by
  rw [(exec_of_target_offset (.programData a b) a b false s rfl rfl).2, onFlash_eq s f a _ hf ha,
    ← FlashChip.transition_byteProgram hq]
  rfl

/-- After a program cycle the sequencer is in BYTE_PROGRAM_HAPPENING or in the error state, so the next transition
only moves it (R130, R144 to R146). -/
theorem FlashChip.programCycle_transition (f : FlashChip) (a a' : Nat) (b b' : Byte) :
    ∃ q, (f.programCycle a b).transition a' b' = (f.program a b).goto q := by
  obtain ⟨q, hq⟩ : ∃ q, (f.programCycle a b).transition a' b' = (f.programCycle a b).goto q := by
    refine FlashChip.transition_eq_goto a' b' ?_ ?_ <;>
      (rw [f.programCycle_eq, FlashChip.goto_state]
       split <;> simp)
  refine ⟨q, ?_⟩
  rw [hq, f.programCycle_eq]
  rfl

/-- A read right after a program that succeeded returns the byte asked for (R105, R160). -/
theorem FlashChip.readByte_programCycle_of_success {f : FlashChip} {a : Nat} {b : Byte} (hwf : f.wf)
    (h : programSucceeds (f.byteAt a) b = true) (cyc : Cycle) : (f.programCycle a b).readByte a cyc = b := by
  rw [f.programCycle_eq, if_pos h, FlashChip.readByte_array (by simp) (by simp), FlashChip.goto_byteAt,
    f.byteAt_program a a b hwf, if_pos rfl]
  exact beq_iff_eq.1 h

/-- A read right after a program that failed returns the status byte of the byte asked for (R103, R166). -/
theorem FlashChip.readByte_programCycle_of_failure {f : FlashChip} {a : Nat} {b : Byte}
    (h : programSucceeds (f.byteAt a) b ≠ true) (cyc : Cycle) :
    (f.programCycle a b).readByte a cyc = statusByte b cyc := by
  rw [f.programCycle_eq, if_neg h, FlashChip.readByte_programError rfl]
  rfl

end Sys2Proof.Machine
end

section
/-! SUPPORT. Why an operation is refused, by what it addresses (R57, R101, R109, R110, R280, log 12). -/

namespace Sys2Proof.Machine

/-- F.reset is refused exactly where there is no chip. -/
theorem exec_fReset_refused_iff (s : State) (r : Refusal) :
    exec .fReset s = .refused r ↔ r = .noFlashChip ∧ ∃ m, s.ctrl = .megaCart m := by
  rw [← s.ctrl.flash?_eq_none]
  cases hf : s.ctrl.flash? with
  | none =>
    have : exec .fReset s = .refused .noFlashChip := by
      change execFReset s = _
      simp only [execFReset, hf]
    simp [this, eq_comm]
  | some f => simp [exec_fReset hf]

/-- The two reasons for which an operation of the chip is refused. -/
theorem onFlash_refused_iff (s : State) (a : Offset) (op : FlashChip → Nat → Option Byte × FlashChip) (r : Refusal) :
    onFlash s a op = .refused r ↔ (r = .noFlashChip ∧ ∃ m, s.ctrl = .megaCart m) ∨
      (r = .offsetOutOfRange ∧ ∃ f, s.ctrl.flash? = some f ∧ f.geometry.size ≤ a.toNat) := by
  rw [← s.ctrl.flash?_eq_none]
  rcases onFlash_cases s a op with ⟨hm, h⟩ | ⟨f, hf, ⟨hlt, h⟩ | ⟨hle, h⟩⟩
  · simp [h, s.ctrl.flash?_eq_none.2 hm, eq_comm]
  · simp [h, hf, hlt]
  · simp [h, hf, hle, eq_comm]

/-- The one reason for which an operation at a CPU address is refused. -/
theorem onWindow_refused_iff (s : State) (addr : Addr) (op : Window → Option Byte × Controller) (r : Refusal) :
    onWindow s addr op = .refused r ↔ r = .outsideWindows ∧ s.ctrl.window? addr = none := by
  rcases onWindow_cases s addr op with ⟨hw, h⟩ | ⟨w, hw, h⟩
  · simp [h, hw, eq_comm]
  · simp [h, hw]

/-- Every operation at an offset is an operation of the chip there: a store, a read or a peek. -/
theorem exists_onFlash_of_target_offset {i : Instr} {a : Offset} (s : State) (ha : i.target = .offset a) :
    ∃ op, exec i s = onFlash s a op := by
  cases hb : i.stored? with
  | some p => exact ⟨_, (exec_of_target_offset i a p.1 p.2 s ha hb).2⟩
  | none =>
    rcases eq_fRead_or_fPeek ha hb with ⟨cyc, rfl⟩ | rfl
    · exact ⟨_, show execFRead a cyc s = _ from rfl⟩
    · exact ⟨_, show execFPeek a s = _ from rfl⟩

/-- Every operation at a CPU address is an operation through a window there. -/
theorem exists_onWindow_of_target_cpu {i : Instr} {addr : Addr} (s : State) (h : i.target = .cpu addr) :
    ∃ op, exec i s = onWindow s addr op := by
  obtain ⟨acc, -, he⟩ := exec_of_target_cpu i addr s h
  cases acc with
  | load busLast cyc => exact ⟨_, he⟩
  | store b rmw => exact ⟨_, he⟩

/-- When an operation at an offset is refused, and why. -/
theorem exec_refused_iff_of_target_offset {i : Instr} {a : Offset} (ha : i.target = .offset a) (s : State)
    (r : Refusal) : exec i s = .refused r ↔ (r = .noFlashChip ∧ ∃ m, s.ctrl = .megaCart m) ∨
      (r = .offsetOutOfRange ∧ ∃ f, s.ctrl.flash? = some f ∧ f.geometry.size ≤ a.toNat) := by
  obtain ⟨op, h⟩ := exists_onFlash_of_target_offset s ha
  rw [h]
  exact onFlash_refused_iff s a op r

/-- When an operation at a CPU address is refused, and why. -/
theorem exec_refused_iff_of_target_cpu {i : Instr} {addr : Addr} (h : i.target = .cpu addr) (s : State)
    (r : Refusal) : exec i s = .refused r ↔ r = .outsideWindows ∧ s.ctrl.window? addr = none := by
  obtain ⟨op, he⟩ := exists_onWindow_of_target_cpu s h
  rw [he]
  exact onWindow_refused_iff s addr op r

end Sys2Proof.Machine
end

section
/-! The statements of 40_flash_bus_ops.md, settled. -/

namespace Sys2Proof.Proofs

open Sys2Proof.Machine

/-- Settles O13: AUTOSELECT stays through a read, and the low offset byte selects what is read. -/
theorem readInAutoselect : Obligations.ReadInAutoselect := by
  intro s f a cyc v hf ha hq hv
  have byte : f.readByte a.toNat cyc = v := by
    rw [FlashChip.readByte_autoselect hq, FlashChip.autoselectByte_eq, hv]
  have stays : f.state.afterRead = f.state := by rw [hq]; rfl
  rw [exec_fRead hf ha, byte, stays]

/-- Settles O14: the error state stays through a read, which returns the status byte. -/
theorem readInProgramError : Obligations.ReadInProgramError := by
  intro s f a cyc hf ha hq
  have stays : f.state.afterRead = f.state := by rw [hq]; rfl
  refine ⟨statusByte f.lastProgrammed cyc, ?_, statusByte_bits f.lastProgrammed cyc⟩
  rw [exec_fRead hf ha, FlashChip.readByte_programError hq, stays]

/-- Settles O18: the stale store is the first transition of the two, and after a program the second one only moves the
sequencer. -/
theorem rmwStoreIsTwoStores : Obligations.RmwStoreIsTwoStores := by
  intro s f a b hf ha
  refine ⟨⟨_, _, exec_fStore hf ha f.lastRead, ?_, exec_fStoreRmw hf ha b⟩, fun hinv hq => ?_⟩
  · have inside : a.toNat < (f.transition a.toNat f.lastRead).geometry.size := by
      rwa [(f.transition_keeps a.toNat f.lastRead).1]
    rw [exec_fStore (State.flash?_withChip hf _ _) inside b, State.withChip_withChip]
  · have hwf : f.wf := (s.ctrl.wf_flash f hinv hf).1
    obtain ⟨q, hg⟩ := f.programCycle_transition a.toNat a.toNat f.lastRead b
    refine ⟨(f.program a.toNat f.lastRead).goto q, ?_, ?_, fun o ho => ?_, rfl, rfl, rfl⟩
    · rw [exec_fStoreRmw hf ha, FlashChip.transition_byteProgram hq, hg]
    · rw [FlashChip.goto_byteAt, f.byteAt_program _ _ _ hwf, if_pos rfl]
    · rw [FlashChip.goto_byteAt, f.byteAt_program _ _ _ hwf, if_neg ho]

/-- Settles O33: the read finds the chip as the program cycle has left it, in the state its success decides. -/
theorem programIsSeenByNextRead : Obligations.ProgramIsSeenByNextRead := by
  intro s f a b cyc hinv hf ha hq
  have hwf : f.wf := (s.ctrl.wf_flash f hinv hf).1
  have inside : a.toNat < (f.programCycle a.toNat b).geometry.size := by
    rw [f.programCycle_eq]
    exact ha
  refine ⟨_, _, (f.programCycle a.toNat b).readByte a.toNat cyc, exec_programData hf ha hq b,
    exec_fRead (State.flash?_withChip hf _ _) inside cyc, rfl, fun h => ?_, fun h => ?_⟩
  · exact FlashChip.readByte_programCycle_of_success hwf ((programSucceeds_iff _ b).2 h) cyc
  · rw [FlashChip.readByte_programCycle_of_failure fun hs => h ((programSucceeds_iff _ b).1 hs)]
    obtain ⟨dq7, -, dq5, -⟩ := statusByte_bits b cyc
    exact ⟨dq5, dq7⟩

/-- Settles O60, by what the operation addresses. -/
theorem refusalsHaveTheirReason : Obligations.RefusalsHaveTheirReason := by
  refine ⟨fun i s r => ?_, fun s m hm => (exec_fReset_refused_iff s _).2 ⟨rfl, m, hm⟩, fun s a b cyc i hi => ?_⟩
  · split
    · rename_i ht
      cases i <;> cases ht
      simp [exec_cReset]
    · rename_i ht
      cases i <;> cases ht
      exact exec_fReset_refused_iff s r
    · exact exec_refused_iff_of_target_offset ‹_› s r
    · exact exec_refused_iff_of_target_cpu ‹_› s r
  · have ht : i.target = .offset a := by
      simp only [List.mem_cons, List.not_mem_nil, or_false] at hi
      rcases hi with rfl | rfl | rfl | rfl | rfl | rfl <;> rfl
    have refused := exec_refused_iff_of_target_offset ht s
    exact ⟨fun m hm => (refused _).2 (.inl ⟨rfl, m, hm⟩), fun f hf hle => (refused _).2 (.inr ⟨rfl, f, hf, hle⟩)⟩

/-- Settles O12: F.reset only moves the sequencer. -/
theorem flashResetCompletes : Obligations.FlashResetCompletes := fun _ _ hf => exec_fReset hf

/-- Settles O15: the eight states are neither of those that answer something else, and each stays through a read. -/
theorem readReturnsArray : Obligations.ReadReturnsArray := by
  intro s f a cyc hf ha hq
  obtain ⟨notId, notError, stays⟩ :
      f.state ≠ .autoselect ∧ f.state ≠ .byteProgramError ∧ f.state.afterRead = f.state := by
    generalize f.state = q at hq
    revert q
    decide
  rw [exec_fRead hf ha, FlashChip.readByte_array notId notError, stays]

/-- Settles O16: the three states answer array data, and a read demotes each. -/
theorem readDemotesFinishedStates : Obligations.ReadDemotesFinishedStates := by
  intro s f a cyc hf ha hq
  obtain ⟨notId, notError, demoted⟩ :
      f.state ≠ .autoselect ∧ f.state ≠ .byteProgramError ∧ f.state.afterRead = .read := by
    generalize f.state = q at hq
    revert q
    decide
  rw [exec_fRead hf ha, FlashChip.readByte_array notId notError, demoted]

/-- Settles O17; that a transition leaves the last-read latch is `FlashChip.transition_keeps`. -/
theorem storeIsOneTransition : Obligations.StoreIsOneTransition :=
  fun _ f a b hf ha => ⟨exec_fStore hf ha b, (f.transition_keeps a.toNat b).2.1⟩

/-- Settles O19: the chip is put back as it was. -/
theorem peekCompletes : Obligations.PeekCompletes := by
  intro s f a hf ha
  rw [exec_fPeek hf ha, State.withChip_self hf]

end Sys2Proof.Proofs
end

section
/-! SUPPORT. The command sequencer, said once: the branch of `transition` for each state (R121 to R147), the command
rows as transitions (R85, log 9), and the magic addresses as remainders (R82, R120). -/

namespace Sys2Proof

/-! ## The magic addresses -/

/-- Masking an offset takes its remainder: a mask is a power of two less one (R82). -/
theorem Scheme.and_mask (c : Scheme) (a : Nat) : a &&& c.mask = a % (c.mask + 1) := by
  cases c with
  | a => exact Nat.and_two_pow_sub_one_eq_mod a 15
  | b => exact Nat.and_two_pow_sub_one_eq_mod a 11

theorem Geometry.magic1_iff (g : Geometry) (a : Nat) :
    g.magic1 a = true ↔ a % (g.scheme.mask + 1) = g.magic1Addr := by
  rw [Geometry.magic1, beq_iff_eq, Scheme.and_mask]

theorem Geometry.magic2_iff (g : Geometry) (a : Nat) :
    g.magic2 a = true ↔ a % (g.scheme.mask + 1) = g.magic2Addr := by
  rw [Geometry.magic2, beq_iff_eq, Scheme.and_mask]

end Sys2Proof

namespace Sys2Proof.Machine

/-! ## One transition, by state -/

section
variable {f : FlashChip} {a : Nat} {b : Byte}

/-- READ: UNLOCK1, else ignored (R122, R123). -/
theorem FlashChip.transition_read (h : f.state = .read) :
    f.transition a b = if f.geometry.magic1 a = true ∧ b = 0xAA then f.goto .magic1 else f := by
  simp only [FlashChip.transition, h, Bool.and_eq_true, beq_iff_eq]

/-- MAGIC_1: UNLOCK2, else abort (R124, R125). -/
theorem FlashChip.transition_magic1 (h : f.state = .magic1) :
    f.transition a b = if f.geometry.magic2 a = true ∧ b = 0x55 then f.goto .magic2 else f.goto .read := by
  simp only [FlashChip.transition, h, Bool.and_eq_true, beq_iff_eq]

/-- MAGIC_2: one of the three commands, else abort (R126 to R129). -/
theorem FlashChip.transition_magic2 (h : f.state = .magic2) :
    f.transition a b = if f.geometry.magic1 a = true ∧ b = 0x90 then f.goto .autoselect
      else if f.geometry.magic1 a = true ∧ b = 0xA0 then f.goto .byteProgram
      else if f.geometry.magic1 a = true ∧ b = 0x80 then f.goto .eraseMagic1
      else f.goto .read := by
  simp only [FlashChip.transition, h, Bool.and_eq_true, beq_iff_eq]

/-- ERASE_MAGIC_1: ERASE_UNLOCK1, else abort (R131, R132). -/
theorem FlashChip.transition_eraseMagic1 (h : f.state = .eraseMagic1) :
    f.transition a b = if f.geometry.magic1 a = true ∧ b = 0xAA then f.goto .eraseMagic2 else f.goto .read := by
  simp only [FlashChip.transition, h, Bool.and_eq_true, beq_iff_eq]

/-- ERASE_MAGIC_2: ERASE_UNLOCK2, else abort (R133, R134). -/
theorem FlashChip.transition_eraseMagic2 (h : f.state = .eraseMagic2) :
    f.transition a b = if f.geometry.magic2 a = true ∧ b = 0x55 then f.goto .eraseSelect else f.goto .read := by
  simp only [FlashChip.transition, h, Bool.and_eq_true, beq_iff_eq]

/-- ERASE_SELECT: CHIP_ERASE, SECTOR_ERASE at any address, else abort (R135 to R137). -/
theorem FlashChip.transition_eraseSelect (h : f.state = .eraseSelect) :
    f.transition a b = if f.geometry.magic1 a = true ∧ b = 0x10 then f.eraseChip.goto .chipErase
      else if b = 0x30 then (f.eraseSector a).goto .sectorErase
      else f.goto .read := by
  simp only [FlashChip.transition, h, Bool.and_eq_true, beq_iff_eq]

/-- SECTOR_ERASE: ERASE_SUSPEND, else ignored (R138, R139). -/
theorem FlashChip.transition_sectorErase (h : f.state = .sectorErase) :
    f.transition a b = if b = 0xB0 then f.goto .sectorEraseSuspend else f := by
  simp only [FlashChip.transition, h, beq_iff_eq]

/-- SECTOR_ERASE_SUSPEND: ERASE_RESUME, else ignored (R140, R141). -/
theorem FlashChip.transition_sectorEraseSuspend (h : f.state = .sectorEraseSuspend) :
    f.transition a b = if b = 0x30 then f.goto .sectorErase else f := by
  simp only [FlashChip.transition, h, beq_iff_eq]

/-- AUTOSELECT and BYTE_PROGRAM_ERROR: RESET_CMD, else ignored (R142 to R145). -/
theorem FlashChip.transition_resetCmd (h : f.state = .autoselect ∨ f.state = .byteProgramError) :
    f.transition a b = if b = 0xF0 then f.goto .read else f := by
  rcases h with h | h <;> simp only [FlashChip.transition, h, beq_iff_eq, FlashChip.leaveToRead]

/-- BYTE_PROGRAM_HAPPENING and CHIP_ERASE: every store is ignored (R146, R147). -/
theorem FlashChip.transition_ignored (h : f.state = .byteProgramHappening ∨ f.state = .chipErase) :
    f.transition a b = f := by
  rcases h with h | h <;> simp only [FlashChip.transition, h]

end

/-- From READ two stores reach MAGIC_2 exactly as the two unlock cycles: a first store that is no UNLOCK1 stays in READ,
from which one store cannot reach MAGIC_2 (R122 to R125). -/
theorem FlashChip.unlock_reaches_magic2_iff {f : FlashChip} (hq : f.state = .read) (a1 a2 : Nat) (b1 b2 : Byte) :
    ((f.transition a1 b1).transition a2 b2).state = .magic2 ↔
      (f.geometry.magic1 a1 = true ∧ b1 = 0xAA) ∧ f.geometry.magic2 a2 = true ∧ b2 = 0x55 := by
  by_cases unlock1 : f.geometry.magic1 a1 = true ∧ b1 = 0xAA
  · rw [FlashChip.transition_read hq, if_pos unlock1, FlashChip.transition_magic1 (FlashChip.goto_state ..),
      FlashChip.goto_geometry, and_iff_right unlock1]
    split
    · exact iff_of_true rfl ‹_›
    · exact iff_of_false (by simp) ‹_›
  · rw [FlashChip.transition_read hq, if_neg unlock1, FlashChip.transition_read hq]
    refine iff_of_false ?_ fun h => unlock1 h.1
    split <;> simp [hq]

/-! ## The command rows -/

/-- Every operation that stores a byte once at an offset is the plain store of that byte there (R85, log 9). -/
theorem exec_eq_fStore {i : Instr} {a : Offset} {b : Byte} (ht : i.target = .offset a)
    (hb : i.stored? = some (b, false)) (s : State) : exec i s = exec (.fStore a b) s :=
  (exec_of_target_offset i a b false s ht hb).2.trans (exec_of_target_offset (.fStore a b) a b false s rfl rfl).2.symm

section
variable {s : State} {f : FlashChip} {a : Offset} {b : Byte} {i : Instr}

/-- A row inside the chip leaves the chip as the transition of its byte does. -/
theorem exec_row {g : FlashChip} (hf : s.ctrl.flash? = some f) (ha : a.toNat < f.geometry.size)
    (ht : i.target = .offset a) (hb : i.stored? = some (b, false)) (hg : f.transition a.toNat b = g) :
    exec i s = .next (s.withChip g none) := by
  rw [exec_eq_fStore ht hb, exec_fStore hf ha, hg]

/-- A row whose transition ignores its byte changes nothing. -/
theorem exec_ignored_row (hf : s.ctrl.flash? = some f) (ha : a.toNat < f.geometry.size)
    (ht : i.target = .offset a) (hb : i.stored? = some (b, false)) (hg : f.transition a.toNat b = f) :
    exec i s = .next { s with dataOut := none } := by
  rw [exec_row hf ha ht hb hg, State.withChip_self hf]

end

end Sys2Proof.Machine
end

section
/-! The statements of 41_flash_commands.md, settled. -/

namespace Sys2Proof.Proofs

open Sys2Proof.Machine

/-- Settles O26: the chip after the cycle is `programCycle`, a program and a move of the sequencer. -/
theorem programDataRow : Obligations.ProgramDataRow := by
  intro s f a b hinv hf ha hq
  have hwf : f.wf := (s.ctrl.wf_flash f hinv hf).1
  refine ⟨_, exec_programData hf ha hq b, ?_⟩
  rw [f.programCycle_eq]
  refine ⟨?_, fun o ho => ?_, ?_, rfl, rfl, rfl, rfl⟩
  · rw [FlashChip.goto_byteAt, f.byteAt_program _ _ _ hwf, if_pos rfl]
  · rw [FlashChip.goto_byteAt, f.byteAt_program _ _ _ hwf, if_neg ho]
  · simp only [FlashChip.goto_state, programSucceeds_iff]

/-- Settles O29: each row stores its byte once at its offset. -/
theorem commandRowsAgreeWithStore : Obligations.CommandRowsAgreeWithStore := by
  intro s a b
  simp only [List.forall_mem_cons, List.not_mem_nil, false_implies, implies_true, and_true]
  and_intros <;> exact exec_eq_fStore rfl rfl s

/-- Settles O30, by the two transitions that the two stores are. -/
theorem unlockReachesMagic2Exactly : Obligations.UnlockReachesMagic2Exactly := by
  intro s f a1 a2 b1 b2 hf hq ha1 ha2
  have inside : a2.toNat < (f.transition a1.toNat b1).geometry.size := by
    rwa [(f.transition_keeps a1.toNat b1).1]
  refine ⟨_, _, (f.transition a1.toNat b1).transition a2.toNat b2, exec_fStore hf ha1 b1,
    exec_fStore (State.flash?_withChip hf _ _) inside b2, State.withChip_withChip .., ?_⟩
  intro window
  have window_eq : window = f.geometry.scheme.mask + 1 := by
    dsimp only [window]
    cases f.geometry.scheme <;> rfl
  rw [window_eq, FlashChip.unlock_reaches_magic2_iff hq, Geometry.magic1_iff, Geometry.magic2_iff, and_assoc]
  exact ⟨Iff.rfl, Iff.rfl, Iff.rfl⟩

/-- Settles O31: each of the stores leaves the chip as it was, a read-modify-write store twice. -/
theorem storesIgnoredUntilRead : Obligations.StoresIgnoredUntilRead := by
  intro s f a b hf ha
  refine ⟨fun hq => ?_, fun hq hb => ?_⟩
  · have ignored : ∀ b, f.transition a.toNat b = f := fun b => FlashChip.transition_ignored (by simpa using hq)
    refine ⟨exec_ignored_row hf ha rfl rfl (ignored b), ?_⟩
    rw [exec_fStoreRmw hf ha, ignored, ignored, State.withChip_self hf]
  · exact exec_ignored_row hf ha rfl rfl ((FlashChip.transition_sectorErase hq).trans (if_neg hb))

/-- Settles O32: SECTOR_ERASE_SUSPEND is a state that reads stay in, and 0x30 leads to one that a read demotes. -/
theorem suspendIsSticky : Obligations.SuspendIsSticky := by
  intro s f a b cyc hf ha hq
  have resume : f.transition a.toNat 0x30 = f.goto .sectorErase :=
    (FlashChip.transition_sectorEraseSuspend hq).trans (if_pos rfl)
  refine ⟨readReturnsArray s f a cyc hf ha (by simp [hq]), fun hb => ?_, _, exec_row hf ha rfl rfl resume, ?_⟩
  · exact exec_ignored_row hf ha rfl rfl ((FlashChip.transition_sectorEraseSuspend hq).trans (if_neg hb))
  · rw [readDemotesFinishedStates _ (f.goto .sectorErase) a cyc (State.flash?_withChip hf _ _) ha (by simp),
      State.withChip_withChip]
    rfl

/-- Settles O22: each row's byte and magic class select its branch of the transition. -/
theorem unlockAndSetupRows : Obligations.UnlockAndSetupRows := by
  intro s f a hf ha
  refine ⟨fun magic1 => ⟨fun hq => ?unlock1, fun hq => ⟨?autoselect, ?program, ?erase⟩, fun hq => ?eraseUnlock1⟩,
    fun magic2 => ⟨fun hq => ?unlock2, fun hq => ?eraseUnlock2⟩⟩
  case unlock1 => exact exec_row hf ha rfl rfl ((FlashChip.transition_read hq).trans (if_pos ⟨magic1, rfl⟩))
  case eraseUnlock1 =>
    exact exec_row hf ha rfl rfl ((FlashChip.transition_eraseMagic1 hq).trans (if_pos ⟨magic1, rfl⟩))
  case unlock2 => exact exec_row hf ha rfl rfl ((FlashChip.transition_magic1 hq).trans (if_pos ⟨magic2, rfl⟩))
  case eraseUnlock2 =>
    exact exec_row hf ha rfl rfl ((FlashChip.transition_eraseMagic2 hq).trans (if_pos ⟨magic2, rfl⟩))
  all_goals
    refine exec_row hf ha rfl rfl ((FlashChip.transition_magic2 hq).trans ?_)
    simp [magic1, FlashChip.goto]

/-- Settles O23: a cycle that is no command of its state takes the last branch of the transition. -/
theorem abortRows : Obligations.AbortRows := by
  intro s f a b hf ha
  refine ⟨fun hq hn => ?_, fun hq hn => ?_, fun hq hn => ?_, fun hq hn => ?_, fun hq hn hb => ?_⟩
  · exact exec_row hf ha rfl rfl ((FlashChip.transition_magic1 hq).trans (if_neg hn))
  · refine exec_row hf ha rfl rfl ?_
    rw [FlashChip.transition_magic2 hq, if_neg fun h => hn ⟨h.1, .inl h.2⟩,
      if_neg fun h => hn ⟨h.1, .inr (.inl h.2)⟩, if_neg fun h => hn ⟨h.1, .inr (.inr h.2)⟩]
    rfl
  · exact exec_row hf ha rfl rfl ((FlashChip.transition_eraseMagic1 hq).trans (if_neg hn))
  · exact exec_row hf ha rfl rfl ((FlashChip.transition_eraseMagic2 hq).trans (if_neg hn))
  · exact exec_row hf ha rfl rfl ((FlashChip.transition_eraseSelect hq).trans ((if_neg hn).trans (if_neg hb)))

/-- Settles O24: in each state the byte leaves the chip as it was. -/
theorem ignoreRows : Obligations.IgnoreRows := by
  intro s f a b hf ha
  refine ⟨fun hq hn => ?_, fun hq hb => ?_, fun hq hb => ?_, fun hq hb => ?_, fun hq hb => ?_, fun hq => ?_,
    fun hq => ?_⟩ <;> refine exec_ignored_row hf ha rfl rfl ?_
  · exact (FlashChip.transition_read hq).trans (if_neg hn)
  · exact (FlashChip.transition_sectorErase hq).trans (if_neg hb)
  · exact (FlashChip.transition_sectorEraseSuspend hq).trans (if_neg hb)
  · exact (FlashChip.transition_resetCmd (.inl hq)).trans (if_neg hb)
  · exact (FlashChip.transition_resetCmd (.inr hq)).trans (if_neg hb)
  · exact FlashChip.transition_ignored (.inl hq)
  · exact FlashChip.transition_ignored (.inr hq)

/-- Settles O25: none of the four states examines the address. -/
theorem suspendResumeResetRows : Obligations.SuspendResumeResetRows := by
  intro s f a hf ha
  refine ⟨fun hq => ?_, fun hq => ?_, fun hq => ?_, fun hq => ?_⟩ <;> refine exec_row hf ha rfl rfl ?_
  · exact (FlashChip.transition_sectorErase hq).trans (if_pos rfl)
  · exact (FlashChip.transition_sectorEraseSuspend hq).trans (if_pos rfl)
  · exact (FlashChip.transition_resetCmd (.inl hq)).trans (if_pos rfl)
  · exact (FlashChip.transition_resetCmd (.inr hq)).trans (if_pos rfl)

/-- Settles O27: the first branch of ERASE_SELECT. -/
theorem chipEraseRow : Obligations.ChipEraseRow := by
  intro s f a hf ha hq magic1
  have erased : f.transition a.toNat 0x10 = f.eraseChip.goto .chipErase :=
    (FlashChip.transition_eraseSelect hq).trans (if_pos ⟨magic1, rfl⟩)
  refine ⟨_, exec_row hf ha rfl rfl erased, rfl, rfl, fun o ho => ?_, rfl, rfl, rfl⟩
  rw [FlashChip.goto_byteAt, FlashChip.byteAt_eraseChip, if_pos ho]

/-- Settles O28: 0x30 is not the byte of CHIP_ERASE, so a first magic address is a sector address like any other. -/
theorem sectorEraseRow : Obligations.SectorEraseRow := by
  intro s f a hf ha hq
  have notChipErase : ¬ (f.geometry.magic1 a.toNat = true ∧ (0x30 : Byte) = 0x10) := by simp
  have erased : f.transition a.toNat 0x30 = (f.eraseSector a.toNat).goto .sectorErase :=
    (FlashChip.transition_eraseSelect hq).trans ((if_neg notChipErase).trans (if_pos rfl))
  refine ⟨_, exec_row hf ha rfl rfl erased, rfl, rfl, fun o => ?_, rfl, rfl, rfl⟩
  rw [FlashChip.goto_byteAt, FlashChip.byteAt_eraseSector]

end Sys2Proof.Proofs
end

section
/-! SUPPORT. A program over a canonical array: what it leaves there, and when it leaves the array as it was (R161, R162).
These ask for the canonical form alone, which a program keeps at every address, inside the chip or not. -/

namespace Sys2Proof.Machine

/-- A program keeps the array canonical. -/
theorem FlashChip.wf_backing_program {f : FlashChip} (h : f.backing.wf) (a : Nat) (b : Byte) :
    (f.program a b).backing.wf := Memory.wf_write f.backing a _ h

/-- The programmed byte is the old byte AND the byte asked for (R160). -/
theorem FlashChip.byteAt_program_self {f : FlashChip} (h : f.backing.wf) (a : Nat) (b : Byte) :
    (f.program a b).byteAt a = f.byteAt a &&& b :=
  (Memory.byteAt_write f.backing a a _ h.1).trans (if_pos rfl)

/-- A program that clears no bit changes only the latch of the byte asked for and `dirty`. -/
theorem FlashChip.program_of_and_eq {f : FlashChip} (h : f.backing.wf) {a : Nat} {b : Byte}
    (hb : f.byteAt a &&& b = f.byteAt a) : f.program a b = { f with dirty := true, lastProgrammed := b } := by
  have kept : Memory.write f.backing a (f.byteAt a &&& b) = f.backing := by
    rw [hb]
    exact Memory.write_byteAt f.backing a h
  rw [FlashChip.program, kept]

/-- Whether a program succeeds is the same over what it leaves as over what it found (R161). -/
theorem programSucceeds_and (old b : Byte) : programSucceeds (old &&& b) b = programSucceeds old b := by
  rw [programSucceeds, programSucceeds, BitVec.and_assoc, BitVec.and_self]

end Sys2Proof.Machine
end

section
/-! The statements of 42_flash_program_erase.md, settled. -/

namespace Sys2Proof.Proofs

open Sys2Proof.Machine

/-- Settles O10: a program is one byte written and two latches set. -/
theorem programMergesBits : Obligations.ProgramMergesBits := by
  intro f a b hwf
  refine ⟨?_, fun o ho => ?_, rfl, rfl, rfl, rfl, rfl, programSucceeds_iff _ _⟩
  · rw [f.byteAt_program _ _ _ hwf, if_pos rfl]
  · rw [f.byteAt_program _ _ _ hwf, if_neg ho]

/-- Settles O11: the first program leaves `old AND x`, in which `x` and 0xFF have no bit left to clear. -/
theorem programIsIdempotent : Obligations.ProgramIsIdempotent := by
  intro f a x ⟨_, hcanon, _⟩
  have hcanon' := FlashChip.wf_backing_program hcanon a x
  have merged := FlashChip.byteAt_program_self hcanon a x
  refine ⟨?again, ?success, ?allOnes⟩
  case again =>
    have clears_nothing : (f.program a x).byteAt a &&& x = (f.program a x).byteAt a := by
      rw [merged, BitVec.and_assoc, BitVec.and_self]
    rw [FlashChip.program_of_and_eq hcanon' clears_nothing]
    rfl
  case success => rw [merged, programSucceeds_and]
  case allOnes =>
    have keeps_all : (0xFF : Byte) = BitVec.allOnes 8 := rfl
    rw [FlashChip.byteAt_program_self hcanon', merged, keeps_all, BitVec.and_allOnes]

end Sys2Proof.Proofs
end

section
/-! SUPPORT. The register addresses of each variant, the register one of them selects, and what a configuration access
there answers (R189, R211, R244, R288, R313). -/

namespace Sys2Proof.Machine

/-! ## Register addresses -/

/-- The addresses at which a register of the attached variant answers a load or a store (R189): UltiMem's while they are
visible, MegaCart's for stores alone (R216, R244, R288, R313). -/
def Controller.hasRegisterAt (c : Controller) (dir : Direction) (n : Nat) : Prop :=
  match c with
  | .ultiMem u => u.locked = false ∧ 0x9FF0 ≤ n ∧ n ≤ 0x9FFF
  | .finalExpansion _ => 0x9C00 ≤ n ∧ n ≤ 0x9FFF ∧ 2 ≤ n % 4
  | .megaCart _ => dir = .store ∧ 0x9C00 ≤ n ∧ n ≤ 0x9FFF
  | .vicFlash _ => 0x9800 ≤ n ∧ n ≤ 0x9BFF

/-- The window that holds the registers of the attached variant (R211, R244, R284, R313). -/
def Controller.registerWindow : Controller → Window
  | .ultiMem _ | .finalExpansion _ | .megaCart _ => .io3
  | .vicFlash _ => .io2

/-- A register address lies in the window of the registers. -/
theorem Controller.window?_of_hasRegisterAt {c : Controller} {dir : Direction} {addr : Addr}
    (h : c.hasRegisterAt dir addr.toNat) : c.window? addr = some c.registerWindow := by
  rw [c.window?_eq_some_iff]
  cases c <;> simp only [Controller.hasRegisterAt] at h <;>
    simp only [Controller.answersAt, Controller.registerWindow, Window.contains] <;> omega

/-- No hook moves the register addresses: only UltiMem's can be hidden, and UltiMem has no hook (R192, R216). -/
theorem Controller.hasRegisterAt_hooks (c : Controller) (w : Window) (addr : Addr) (b : Byte) :
    (c.readHook w).hasRegisterAt = c.hasRegisterAt ∧ (c.writeHook w addr b).hasRegisterAt = c.hasRegisterAt := by
  cases c <;> exact ⟨rfl, rfl⟩

/-! ## The register an address selects -/

/-- On an UltiMem, by the low four bits of the address (R215). -/
theorem umRegisterIndex_val (addr : Addr) : (umRegisterIndex addr).val = addr.toNat % 16 := by
  simp [umRegisterIndex]

/-- The register addresses of an UltiMem answer while the registers are visible (R211, R216). -/
theorem UltiMem.answersAsRegister_iff (u : UltiMem) (addr : Addr) :
    u.answersAsRegister addr = true ↔ u.locked = false ∧ 0x9FF0 ≤ addr.toNat ∧ addr.toNat ≤ 0x9FFF := by
  simp [UltiMem.answersAsRegister, umRegisterAddr, and_comm]

/-- On a Final Expansion, by the low two bits of an address of IO3 (R244). -/
theorem feRegisterAt_eq (addr : Addr) : feRegisterAt addr =
    if 0x9C00 ≤ addr.toNat ∧ addr.toNat ≤ 0x9FFF ∧ 2 ≤ addr.toNat % 4 then
      some (if addr.toNat % 4 = 2 then .a else .b)
    else none := by
  by_cases io3 : 0x9C00 ≤ addr.toNat ∧ addr.toNat ≤ 0x9FFF
  · obtain ⟨regA, regB, rest⟩ := feRegisterAt_io3 addr io3.1 io3.2
    split_ifs with hreg hbits
    · exact regA hbits
    · exact regB (by omega)
    · exact rest (by omega)
  · rw [if_neg fun h => io3 ⟨h.1, h.2.1⟩]
    exact if_neg fun hw => io3 ((windowOf_eq_some_iff addr .io3).1 hw)

/-- On a VIC Flash Plugin, by the lowest bit of an address of IO2 (R313). -/
theorem vfpRegisterAt_eq (addr : Addr) : vfpRegisterAt addr =
    if 0x9800 ≤ addr.toNat ∧ addr.toNat ≤ 0x9BFF then some (if addr.toNat % 2 = 0 then .bank else .cfg) else none := by
  by_cases io2 : 0x9800 ≤ addr.toNat ∧ addr.toNat ≤ 0x9BFF
  · obtain ⟨bank, cfg⟩ := vfpRegisterAt_io2 addr io2.1 io2.2
    split_ifs with hbit
    · exact bank hbit
    · exact cfg (by omega)
  · rw [if_neg io2]
    exact if_neg fun hw => io2 ((windowOf_eq_some_iff addr .io2).1 hw)

/-! ## Where no register answers -/

/-- A load finds no register exactly outside the register addresses for loads (R189). -/
theorem Controller.configRead?_eq_none_iff (c : Controller) (addr : Addr) (busLast : Byte) :
    c.configRead? addr busLast = none ↔ ¬ c.hasRegisterAt .load addr.toNat := by
  cases c with
  | ultiMem u =>
    rw [Controller.hasRegisterAt, ← u.answersAsRegister_iff]
    simp [Controller.configRead?]
  | finalExpansion e => simp [Controller.configRead?, Controller.hasRegisterAt, feRegisterAt_eq]
  | megaCart m => simp [Controller.configRead?, Controller.hasRegisterAt]
  | vicFlash v => simp [Controller.configRead?, Controller.hasRegisterAt, vfpRegisterAt_eq]

/-- A store finds no register exactly outside the register addresses for stores (R189, R288). -/
theorem Controller.configWrite?_eq_none_iff (c : Controller) (addr : Addr) (b : Byte) :
    c.configWrite? addr b = none ↔ ¬ c.hasRegisterAt .store addr.toNat := by
  cases c with
  | ultiMem u =>
    rw [Controller.hasRegisterAt, ← u.answersAsRegister_iff]
    simp [Controller.configWrite?]
  | finalExpansion e => simp [Controller.configWrite?, Controller.hasRegisterAt, feRegisterAt_eq]
  | megaCart m => simp [Controller.configWrite?, Controller.hasRegisterAt, windowOf_eq_some_iff, Window.contains]
  | vicFlash v => simp [Controller.configWrite?, Controller.hasRegisterAt, vfpRegisterAt_eq]

/-! ## What a register returns and takes -/

/-- UltiMem: the register under the read mask (R215). -/
theorem UltiMem.configRead?_register {u : UltiMem} {addr : Addr}
    (h : (Controller.ultiMem u).hasRegisterAt .load addr.toNat) (busLast : Byte) :
    (Controller.ultiMem u).configRead? addr busLast = some (u.readReg (umRegisterIndex addr)) :=
  if_pos ((u.answersAsRegister_iff addr).2 h)

/-- UltiMem: the register takes the byte (R215). -/
theorem UltiMem.configWrite?_register {u : UltiMem} {addr : Addr}
    (h : (Controller.ultiMem u).hasRegisterAt .store addr.toNat) (b : Byte) :
    (Controller.ultiMem u).configWrite? addr b = some (.ultiMem (u.writeReg (umRegisterIndex addr) b)) :=
  if_pos ((u.answersAsRegister_iff addr).2 h)

/-- UltiMem: the register written takes the byte under the write mask, the others stay (R215). -/
theorem UltiMem.get_writeReg (u : UltiMem) (i j : Fin 16) (b : Byte) :
    (u.writeReg i b).regs.get j = if j = i then b &&& u.params.wmask.get j else u.regs.get j := by
  rw [UltiMem.writeReg_regs, Vector.get_eq_getElem, Vector.getElem_set]
  by_cases hij : j = i
  · subst hij
    rw [if_pos rfl, if_pos rfl]
  · rw [if_neg hij, if_neg fun h => hij (Fin.ext h.symm), Vector.get_eq_getElem]

/-- Final Expansion: the register, or open bus while locked (R244, R245). -/
theorem FinalExpansion.configRead?_register {e : FinalExpansion} {addr : Addr}
    (h : (Controller.finalExpansion e).hasRegisterAt .load addr.toNat) (busLast : Byte) :
    (Controller.finalExpansion e).configRead? addr busLast =
      some (if e.locked then busLast else if addr.toNat % 4 = 2 then e.regA else e.regB) := by
  have selected : feRegisterAt addr = some _ := (feRegisterAt_eq addr).trans (if_pos h)
  rw [Controller.configRead?, selected, Option.map_some, FinalExpansion.readReg]
  split_ifs <;> rfl

/-- Final Expansion: the register takes the byte, or drops it while locked (R244, R245). -/
theorem FinalExpansion.configWrite?_register {e : FinalExpansion} {addr : Addr}
    (h : (Controller.finalExpansion e).hasRegisterAt .store addr.toNat) (b : Byte) :
    (Controller.finalExpansion e).configWrite? addr b = some (.finalExpansion
      (if e.locked then e else if addr.toNat % 4 = 2 then { e with regA := b } else { e with regB := b })) := by
  have selected : feRegisterAt addr = some _ := (feRegisterAt_eq addr).trans (if_pos h)
  rw [Controller.configWrite?, selected, Option.map_some, FinalExpansion.writeReg]
  split_ifs <;> rfl

/-- VIC Flash Plugin: the register, or open bus while locked (R313, R314). -/
theorem VicFlash.configRead?_register {v : VicFlash} {addr : Addr}
    (h : (Controller.vicFlash v).hasRegisterAt .load addr.toNat) (busLast : Byte) :
    (Controller.vicFlash v).configRead? addr busLast =
      some (if v.locked then busLast else if addr.toNat % 2 = 0 then v.bankReg else v.cfgReg) := by
  have selected : vfpRegisterAt addr = some _ := (vfpRegisterAt_eq addr).trans (if_pos h)
  rw [Controller.configRead?, selected, Option.map_some, VicFlash.readReg]
  split_ifs <;> rfl

/-- VIC Flash Plugin: the register takes the byte and `cfg_en` is latched, or nothing happens while locked (R313 to
R315). -/
theorem VicFlash.configWrite?_register {v : VicFlash} {addr : Addr}
    (h : (Controller.vicFlash v).hasRegisterAt .store addr.toNat) (b : Byte) :
    (Controller.vicFlash v).configWrite? addr b = some (.vicFlash
      (if v.locked then v
      else if addr.toNat % 2 = 0 then { v with bankReg := b, cfgEn := !v.cfgReg.getLsbD 7 }
      else { v with cfgReg := b, cfgEn := !b.getLsbD 7 })) := by
  have selected : vfpRegisterAt addr = some _ := (vfpRegisterAt_eq addr).trans (if_pos h)
  rw [Controller.configWrite?, selected, Option.map_some, VicFlash.writeReg]
  split_ifs <;> rfl

/-! ## Configuration accesses -/

/-- A configuration read answers a register's byte and changes nothing (R189). -/
theorem exec_cConfigRead_register {s : State} {addr : Addr} {busLast v : Byte}
    (hr : s.ctrl.configRead? addr busLast = some v) (cyc : Cycle) :
    exec (.cConfigRead addr busLast cyc) s = .next (s.answer (some v) s.ctrl) := by
  have hreg : s.ctrl.hasRegisterAt .load addr.toNat := by
    by_contra hn
    rw [(Controller.configRead?_eq_none_iff ..).2 hn] at hr
    cases hr
  refine (onWindow_eq s addr _ _ (Controller.window?_of_hasRegisterAt hreg)).trans ?_
  simp only [hr]

/-- A configuration write is the register write that follows the hook (R189). -/
theorem exec_cConfigWrite_register {s : State} {addr : Addr} {b : Byte} {c : Controller}
    (hc : (s.ctrl.writeHook s.ctrl.registerWindow addr b).configWrite? addr b = some c) (rmw : Bool) :
    exec (.cConfigWrite addr b rmw) s = .next (s.answer none c) := by
  have hreg : s.ctrl.hasRegisterAt .store addr.toNat := by
    by_contra hn
    rw [← (s.ctrl.hasRegisterAt_hooks s.ctrl.registerWindow addr b).2] at hn
    rw [(Controller.configWrite?_eq_none_iff ..).2 hn] at hc
    cases hc
  refine (onWindow_eq s addr _ _ (Controller.window?_of_hasRegisterAt hreg)).trans ?_
  simp only [hc]

end Sys2Proof.Machine
end

section
/-! SUPPORT. Loads and stores in a window where no register answers: what `resolve` names after the hook is read or
written, and nothing else (R184, R185, R187). -/

namespace Sys2Proof.Machine

/-! ## The hooks -/

/-- The Final Expansion after its hook, as a controller (R246). -/
theorem FinalExpansion.finalExpansion_hook (e : FinalExpansion) (w : Window) : Controller.finalExpansion (e.hook w) =
    if w = .blk5 then .finalExpansion { e with lockBit := false } else .finalExpansion e :=
  apply_ite Controller.finalExpansion ..

/-- The read hook does nothing to a MegaCart and makes no controller one. -/
theorem Controller.eq_megaCart_of_readHook {c : Controller} {w : Window} {m : MegaCart}
    (h : c.readHook w = .megaCart m) : c = .megaCart m := by
  cases c <;> cases h
  rfl

/-- The write hook does nothing where the chip is write-protected: neither variant with a hook has the bit (R185). -/
theorem Controller.writeHook_of_writeProtected {c : Controller} (h : c.writeProtected = true) (w : Window) (addr : Addr)
    (b : Byte) : c.writeHook w addr b = c := by
  cases c with
  | vicFlash v => rfl
  | ultiMem _ | finalExpansion _ | megaCart _ => cases h

/-! ## Buffers -/

/-- A read-write buffer of the attached variant, the one that `bufferByte` reads. -/
def Controller.buffer (c : Controller) (buf : BufferName) : Buffer :=
  match c, buf with
  | .ultiMem u, _ => u.ram
  | .finalExpansion e, _ => e.ram
  | .megaCart m, .ram => m.ram
  | .megaCart m, .nvram => m.nvram
  | .vicFlash v, _ => v.ram

@[simp] theorem Controller.buffer_byteAt (c : Controller) (buf : BufferName) (o : Nat) :
    (c.buffer buf).byteAt o = c.bufferByte buf o := by
  cases c <;> cases buf <;> rfl

@[simp] theorem Controller.buffer_size (c : Controller) (buf : BufferName) :
    (c.buffer buf).size = c.bufferSize buf := by
  cases c <;> cases buf <;> rfl

/-- The buffers of a well-formed controller are well-formed. -/
theorem Controller.wf_buffer {c : Controller} (h : c.wf) (buf : BufferName) : (c.buffer buf).wf := by
  cases c with
  | megaCart m =>
    cases buf with
    | ram => exact h.1
    | nvram => exact h.2.1
  | ultiMem _ | finalExpansion _ | vicFlash _ => exact h.1

/-- A buffer write replaces the buffer by one with the byte written. -/
theorem Controller.bufferWrite_eq_withBuffer (c : Controller) (buf : BufferName) (o : Nat) (b : Byte) :
    c.bufferWrite buf o b = c.withBuffer buf ((c.buffer buf).write o b) := by
  cases c <;> cases buf <;> rfl

/-- Where no register answers a store, the hook before it leaves the buffers: MegaCart's, which stores to NVRAM, acts in
IO3, where every address is a register's (R284, R288). -/
theorem Controller.buffer_writeHook {c : Controller} {w : Window} {addr : Addr} {b : Byte}
    (hw : c.window? addr = some w) (hc : (c.writeHook w addr b).configWrite? addr b = none) (buf : BufferName) :
    (c.writeHook w addr b).buffer buf = c.buffer buf := by
  rcases c.writeHook_cases w addr b with h | ⟨e, rfl, -, h⟩ | ⟨m, rfl, rfl, -⟩
  · rw [h]
  · rw [h]
    rfl
  · rw [Controller.configWrite?_eq_none_iff] at hc
    exact absurd ⟨rfl, ((Controller.window?_eq_some_iff _ _ _).1 hw).2⟩ hc

/-! ## The chip -/

/-- A load that resolves to flash is the chip's read. -/
theorem Controller.flashRead_eq {c : Controller} {f : FlashChip} (hf : c.flash? = some f) (o : Nat) (busLast : Byte)
    (cyc : Cycle) : c.flashRead o busLast cyc = ((f.read o cyc).1, c.withFlash (f.read o cyc).2) := by
  simp only [Controller.flashRead, hf]

/-- A store that resolves to flash is the chip's store, or nothing under write-protect (R185). -/
theorem Controller.flashStore_eq {c : Controller} {f : FlashChip} (hf : c.flash? = some f) (o : Nat) (b : Byte)
    (rmw : Bool) : c.flashStore o b rmw = if c.writeProtected then c else c.withFlash (f.store o b rmw) := by
  simp only [Controller.flashStore, hf]

/-- After the hook, a store that resolves to flash is the chip's store, or leaves the controller as it was under
write-protect. -/
theorem Controller.flashStore_writeHook {c : Controller} {f : FlashChip} (hf : c.flash? = some f) (w : Window)
    (addr : Addr) (o : Nat) (b : Byte) (rmw : Bool) : (c.writeHook w addr b).flashStore o b rmw =
      if c.writeProtected then c else (c.writeHook w addr b).withFlash (f.store o b rmw) := by
  rw [Controller.flashStore_eq ((c.flash?_hooks w addr b).2.trans hf), Controller.writeProtected_writeHook]
  split_ifs with hp
  · exact Controller.writeHook_of_writeProtected hp w addr b
  · rfl

/-! ## The accesses -/

/-- A load where no register answers returns what `resolve` names, after the hook (R184). -/
theorem exec_cRead_resolved {s : State} {addr : Addr} {w : Window} {busLast : Byte} (hw : s.ctrl.window? addr = some w)
    (hc : (s.ctrl.readHook w).configRead? addr busLast = none) (cyc : Cycle) {p : Byte × Controller}
    (hp : (s.ctrl.readHook w).readResolved ((s.ctrl.readHook w).resolve w addr .load) busLast cyc = p) :
    exec (.cRead addr busLast cyc) s = .next (s.answer (some p.1) p.2) := by
  have hread : s.ctrl.read w addr busLast cyc = p := by simp only [Controller.read, hc, hp]
  rw [← hread]
  exact onWindow_eq s addr w _ hw

/-- A store where no register answers changes what `resolve` names, after the hook (R185, R187). -/
theorem exec_cWrite_resolved {s : State} {addr : Addr} {w : Window} {b : Byte} (hw : s.ctrl.window? addr = some w)
    (hc : (s.ctrl.writeHook w addr b).configWrite? addr b = none) (rmw : Bool) {c : Controller}
    (hp : (s.ctrl.writeHook w addr b).writeResolved ((s.ctrl.writeHook w addr b).resolve w addr .store) b rmw = c) :
    exec (.cWrite addr b rmw) s = .next (s.answer none c) := by
  have hwrite : s.ctrl.write w addr b rmw = c := by simp only [Controller.write, hc, hp]
  rw [← hwrite]
  exact onWindow_eq s addr w _ hw

end Sys2Proof.Machine
end

section
/-! The statements of 43_bank_contract.md, settled. -/

namespace Sys2Proof.Proofs

open Sys2Proof.Machine

/-- Settles O35: the registers stay where they are under the hook, and elsewhere a load does what its resolution says;
that one in range has the chip or the ROM it names. -/
theorem readThroughWindow : Obligations.ReadThroughWindow := by
  intro s addr w busLast cyc hw
  refine ⟨?hook, ?decode, fun hc => ?resolved⟩
  case hook =>
    obtain ⟨c, inbox, out, caller⟩ := s
    cases c with
    | finalExpansion e => exact e.finalExpansion_hook w
    | ultiMem _ | megaCart _ | vicFlash _ => rfl
  case decode =>
    rw [Controller.configRead?_eq_none_iff, (s.ctrl.hasRegisterAt_hooks w addr 0).1]
    obtain ⟨c, inbox, out, caller⟩ := s
    cases c with
    | megaCart m => exact iff_of_true (fun h => nomatch h.1) trivial
    | ultiMem _ | finalExpansion _ | vicFlash _ => exact Iff.rfl
  case resolved =>
    have inRange := (s.ctrl.readHook w).resolve_inRange w addr .load
    have answers := @exec_cRead_resolved s addr w busLast hw hc cyc
    generalize (s.ctrl.readHook w).resolve w addr .load = r at inRange answers ⊢
    cases r with
    | disabled => exact answers rfl
    | ram buf o | ramReadOnly buf o => exact answers rfl
    | rom o =>
      obtain ⟨m, hm, -⟩ := inRange
      have unhooked := Controller.eq_megaCart_of_readHook hm
      have romRead : (s.ctrl.readHook w).readResolved (.rom o) busLast cyc = (m.rom.byteAt o, s.ctrl) := by
        rw [hm, unhooked]
        rfl
      exact ⟨m, unhooked, answers romRead⟩
    | flash o =>
      obtain ⟨f, hf, -⟩ := inRange
      exact ⟨f, (s.ctrl.flash?_hooks w addr 0).1 ▸ hf, answers (Controller.flashRead_eq hf o busLast cyc)⟩

/-- Settles O36: the registers stay where they are under the hook, and elsewhere a store does what its resolution says;
the hook has then left the buffers. -/
theorem writeThroughWindow : Obligations.WriteThroughWindow := by
  intro s addr w b rmw hinv hw
  refine ⟨?hook, ?decode, fun hc => ?resolved⟩
  case hook =>
    obtain ⟨c, inbox, out, caller⟩ := s
    cases c with
    | finalExpansion e => exact e.finalExpansion_hook w
    | megaCart m => exact fun hio3 => congrArg Controller.megaCart (if_neg hio3)
    | ultiMem _ | vicFlash _ => rfl
  case decode =>
    rw [Controller.configWrite?_eq_none_iff, (s.ctrl.hasRegisterAt_hooks w addr b).2]
    obtain ⟨c, inbox, out, caller⟩ := s
    cases c with
    | megaCart m => exact not_congr (and_iff_right rfl)
    | ultiMem _ | finalExpansion _ | vicFlash _ => exact Iff.rfl
  case resolved =>
    have inRange := (s.ctrl.writeHook w addr b).resolve_inRange w addr .store
    have answers := @exec_cWrite_resolved s addr w b hw hc rmw
    generalize (s.ctrl.writeHook w addr b).resolve w addr .store = r at inRange answers ⊢
    cases r with
    | disabled => exact answers rfl
    | ramReadOnly buf o => exact answers rfl
    | rom o => exact answers rfl
    | ram buf o =>
      have written := Controller.bufferWrite_eq_withBuffer (s.ctrl.writeHook w addr b) buf o b
      rw [Controller.buffer_writeHook hw hc] at written
      have byteAt := fun o' => Buffer.byteAt_write (s.ctrl.buffer buf) o o' b (Controller.wf_buffer hinv buf)
      refine ⟨(s.ctrl.buffer buf).write o b, answers written, ?_, fun o' ho' => ?_, s.ctrl.buffer_size buf⟩
      · rw [byteAt, if_pos rfl]
      · rw [byteAt, if_neg ho', Controller.buffer_byteAt]
    | flash o =>
      obtain ⟨f, hf, -⟩ := inRange
      rw [(s.ctrl.flash?_hooks w addr b).2] at hf
      exact ⟨f, hf, answers (Controller.flashStore_writeHook hf w addr o b rmw)⟩

/-- Settles O40: a load or a store of the registers is the bus access at its address. -/
theorem configAccessIsBusAccess : Obligations.ConfigAccessIsBusAccess :=
  fun s addr busLast b cyc rmw =>
    ⟨execCConfigRead_eq_busRead addr busLast cyc s, execCConfigWrite_eq_busWrite addr b rmw s⟩

/-- Settles O38: each variant's register at the address is the one the decode of its low bits selects. -/
theorem configReadAnswers : Obligations.ConfigReadAnswers := by
  rintro ⟨c, inbox, out, caller⟩ addr busLast cyc
  refine ⟨?ultiMem, ?finalExpansion, ?vicFlash⟩
  case ultiMem =>
    rintro u ⟨rfl⟩ hvisible hlo hhi i hi
    have index : umRegisterIndex addr = i := Fin.ext ((umRegisterIndex_val addr).trans hi.symm)
    rw [← index]
    exact exec_cConfigRead_register (UltiMem.configRead?_register ⟨hvisible, hlo, hhi⟩ busLast) cyc
  case finalExpansion =>
    rintro e ⟨rfl⟩ hlo hhi hbits
    exact exec_cConfigRead_register (FinalExpansion.configRead?_register ⟨hlo, hhi, hbits⟩ busLast) cyc
  case vicFlash =>
    rintro v ⟨rfl⟩ hlo hhi
    exact exec_cConfigRead_register (VicFlash.configRead?_register ⟨hlo, hhi⟩ busLast) cyc

/-- Settles O39: no hook acts at the register addresses of these three variants, so the register write is all that
happens. -/
theorem configWriteTakes : Obligations.ConfigWriteTakes := by
  rintro ⟨c, inbox, out, caller⟩ addr b rmw
  refine ⟨?ultiMem, ?finalExpansion, ?vicFlash⟩
  case ultiMem =>
    rintro u ⟨rfl⟩ hvisible hlo hhi
    refine ⟨(u.writeReg (umRegisterIndex addr) b).regs, exec_cConfigWrite_register ?_ rmw, fun j => ?_⟩
    · exact UltiMem.configWrite?_register ⟨hvisible, hlo, hhi⟩ b
    · simp only [u.get_writeReg, Fin.ext_iff, umRegisterIndex_val]
  case finalExpansion =>
    rintro e ⟨rfl⟩ hlo hhi hbits
    refine exec_cConfigWrite_register ?_ rmw
    exact FinalExpansion.configWrite?_register ⟨hlo, hhi, hbits⟩ b
  case vicFlash =>
    rintro v ⟨rfl⟩ hlo hhi
    refine exec_cConfigWrite_register ?_ rmw
    exact VicFlash.configWrite?_register ⟨hlo, hhi⟩ b

end Sys2Proof.Proofs
end

section
/-! SUPPORT. The sixteen UltiMem register rows, what a visible register answers, and the register addresses once they
are hidden (R215, R216). -/

namespace Sys2Proof.Machine

/-! ## Visible registers -/

/-- Each row of the register table is the access to the register of its number (R211). -/
theorem exec_umRow {p : Fin 16 × (Access → Instr)} (hp : p ∈ umRows) (acc : Access) (s : State) :
    exec (p.2 acc) s = umRegister p.1 acc s := by
  have rows : ∀ q ∈ umRows, exec (q.2 acc) s = umRegister q.1 acc s := by
    simp only [umRows, List.forall_mem_cons]
    exact ⟨rfl, rfl, rfl, rfl, rfl, rfl, rfl, rfl, rfl, rfl, rfl, rfl, rfl, rfl, rfl, rfl, nofun⟩
  exact rows p hp

/-- A load of a visible register returns its byte under the read mask and leaves the controller (R215). -/
theorem umRegister_load_visible {s : State} {u : UltiMem} (hs : s.ctrl = .ultiMem u) (hvisible : u.locked = false)
    (i : Fin 16) (busLast : Byte) (cyc : Cycle) :
    umRegister i (.load busLast cyc) s = .next (s.answer (some (u.readReg i)) s.ctrl) := by
  simp [umRegister, hs, hvisible]

/-- A store to a visible register writes that register (R215). -/
theorem umRegister_store_visible {s : State} {u : UltiMem} (hs : s.ctrl = .ultiMem u) (hvisible : u.locked = false)
    (i : Fin 16) (b : Byte) (rmw : Bool) :
    umRegister i (.store b rmw) s = .next (s.answer none (.ultiMem (u.writeReg i b))) := by
  simp [umRegister, hs, hvisible]

/-! ## Hidden registers -/

/-- An UltiMem whose registers are hidden has no register address (R216). -/
theorem UltiMem.not_hasRegisterAt_of_locked {u : UltiMem} (h : u.locked = true) (dir : Direction) (n : Nat) :
    ¬ (Controller.ultiMem u).hasRegisterAt dir n := by
  rintro ⟨hvisible, -⟩
  rw [h] at hvisible
  cases hvisible

/-- A store to what a window resolves to reaches the RAM or the chip of an UltiMem, never a register (R185). -/
theorem UltiMem.writeResolved_keeps_regs (u : UltiMem) (r : Resolution) (b : Byte) (rmw : Bool) :
    ∃ u', (Controller.ultiMem u).writeResolved r b rmw = .ultiMem u' ∧ u'.regs = u.regs := by
  cases r with
  | disabled | rom _ | ramReadOnly _ _ => exact ⟨u, rfl, rfl⟩
  | flash o => exact ⟨{ u with flash := u.flash.store o b rmw }, rfl, rfl⟩
  | ram buf o => exact ⟨{ u with ram := u.ram.write o b }, rfl, rfl⟩

end Sys2Proof.Machine
end

section
/-! The statements of 44_ultimem.md, settled. -/

namespace Sys2Proof.Proofs

open Sys2Proof.Machine

/-- Settles O43: each row is the access to its register, which answers while the registers are visible. -/
theorem ultiMemRegisterRows : Obligations.UltiMemRegisterRows := by
  intro s u hs hvisible p hp
  refine ⟨fun busLast cyc => ?load, fun b rmw => ⟨(u.writeReg p.1 b).regs, ?store, fun j => ?registers⟩⟩
  case load => exact (exec_umRow hp _ s).trans (umRegister_load_visible hs hvisible p.1 busLast cyc)
  case store => exact (exec_umRow hp _ s).trans (umRegister_store_visible hs hvisible p.1 b rmw)
  case registers =>
    rw [u.get_writeReg]
    split_ifs with hj
    · rw [hj]
    · rfl

/-- Settles O45: an UltiMem has no hook, its hidden registers do not answer, and what IO3 resolves to holds no
register. -/
theorem ultiMemHiddenRegisters : Obligations.UltiMemHiddenRegisters := by
  rintro ⟨c, inbox, out, caller⟩ u addr ⟨rfl⟩ hhidden hlo hhi
  have io3 : (Controller.ultiMem u).window? addr = some .io3 := by
    rw [Controller.window?_eq_some_iff]
    simp only [Controller.answersAt, Window.contains]
    omega
  have noRegister := fun dir => UltiMem.not_hasRegisterAt_of_locked hhidden dir addr.toNat
  refine ⟨fun busLast cyc => ?read, fun b rmw => ?write⟩
  case read =>
    refine exec_cRead_resolved io3 ?_ cyc rfl
    exact (Controller.configRead?_eq_none_iff ..).2 (noRegister .load)
  case write =>
    obtain ⟨u', hwritten, hregs⟩ := u.writeResolved_keeps_regs (u.resolve .io3 addr) b rmw
    refine ⟨u', exec_cWrite_resolved io3 ?_ rmw hwritten, hregs, hwritten.symm⟩
    exact (Controller.configWrite?_eq_none_iff ..).2 (noRegister .store)

end Sys2Proof.Proofs
end

section
/-! SUPPORT. The operations that leave every register and flip-flop alone, and what the others leave of the locks (R190,
R246, R291, R348). -/

namespace Sys2Proof.Machine

/-! ## Registers and flip-flops -/

/-- Two controllers of one variant with the same registers and flip-flops: they differ in buffers and chip at most. -/
def Controller.sameRegisters (c d : Controller) : Prop :=
  match c with
  | .ultiMem u => ∃ u', d = .ultiMem u' ∧ u'.regs = u.regs
  | .finalExpansion e =>
    ∃ e', d = .finalExpansion e' ∧ e'.regA = e.regA ∧ e'.regB = e.regB ∧ e'.lockBit = e.lockBit
  | .megaCart m =>
    ∃ m', d = .megaCart m' ∧ m'.bankLow = m.bankLow ∧ m'.bankHigh = m.bankHigh ∧
      m'.outputEnable = m.outputEnable ∧ m'.nvramEnable = m.nvramEnable
  | .vicFlash v =>
    ∃ v', d = .vicFlash v' ∧ v'.bankReg = v.bankReg ∧ v'.cfgReg = v.cfgReg ∧ v'.cfgEn = v.cfgEn

theorem Controller.sameRegisters_refl (c : Controller) : c.sameRegisters c := by
  cases c <;> simp [Controller.sameRegisters]

theorem Controller.sameRegisters_withFlash (c : Controller) (f : FlashChip) : c.sameRegisters (c.withFlash f) := by
  cases c <;> simp [Controller.sameRegisters, Controller.withFlash]

theorem Controller.sameRegisters_bufferWrite (c : Controller) (buf : BufferName) (o : Nat) (b : Byte) :
    c.sameRegisters (c.bufferWrite buf o b) := by
  cases c <;> cases buf <;> simp [Controller.sameRegisters, Controller.bufferWrite]

/-- A load changes no register after its hook (R184). -/
theorem Controller.sameRegisters_read (c : Controller) (w : Window) (addr : Addr) (busLast : Byte) (cyc : Cycle) :
    (c.readHook w).sameRegisters (c.read w addr busLast cyc).2 := by
  rcases c.read_cases w addr busLast cyc with ⟨v, h⟩ | ⟨o, f, -, -, h⟩ <;> rw [h]
  · exact Controller.sameRegisters_refl _
  · exact Controller.sameRegisters_withFlash _ _

/-- A store where no register answers changes no register after its hook (R185). -/
theorem Controller.sameRegisters_write {c : Controller} {w : Window} {addr : Addr} {b : Byte}
    (hc : (c.writeHook w addr b).configWrite? addr b = none) (rmw : Bool) :
    (c.writeHook w addr b).sameRegisters (c.write w addr b rmw) := by
  rcases c.write_cases w addr b rmw with h | ⟨-, h | ⟨buf, o, -, h⟩ | ⟨o, f, -, -, -, h⟩⟩
  · cases hc.symm.trans h
  · rw [h]
    exact Controller.sameRegisters_refl _
  · rw [h]
    exact Controller.sameRegisters_bufferWrite ..
  · rw [h]
    exact Controller.sameRegisters_withFlash _ _

/-! ## The locks -/

/-- The locks of `c` as `d` holds them: while a lock of registers is on, they and it are as they were; MegaCart's
`output_enable` has not moved; the Final Expansion's lock bit is as it was, or has been cleared by an access in BLK5. -/
def Controller.holdsLocks (inBlk5 : Prop) (c d : Controller) : Prop :=
  match c with
  | .ultiMem u => ∃ u', d = .ultiMem u' ∧ (u.locked = true → u'.regs = u.regs)
  | .finalExpansion e =>
    ∃ e', d = .finalExpansion e' ∧ (e.regB.getLsbD 7 = true → e'.regA = e.regA ∧ e'.regB = e.regB) ∧
      (e'.lockBit = e.lockBit ∨ (inBlk5 ∧ e'.lockBit = false))
  | .megaCart m => ∃ m', d = .megaCart m' ∧ m'.outputEnable = m.outputEnable
  | .vicFlash v =>
    ∃ v', d = .vicFlash v' ∧ (v.locked = true → v'.bankReg = v.bankReg ∧ v'.cfgReg = v.cfgReg ∧ v'.cfgEn = v.cfgEn)

/-- Equal registers and flip-flops are equal locks. -/
theorem Controller.holdsLocks_of_sameRegisters {c d : Controller} (p : Prop) (h : c.sameRegisters d) :
    c.holdsLocks p d := by
  cases c with
  | ultiMem u =>
    obtain ⟨u', rfl, hregs⟩ := h
    exact ⟨u', rfl, fun _ => hregs⟩
  | finalExpansion e =>
    obtain ⟨e', rfl, ha, hb, hlock⟩ := h
    exact ⟨e', rfl, fun _ => ⟨ha, hb⟩, .inl hlock⟩
  | megaCart m =>
    obtain ⟨m', rfl, -, -, hout, -⟩ := h
    exact ⟨m', rfl, hout⟩
  | vicFlash v =>
    obtain ⟨v', rfl, hregs⟩ := h
    exact ⟨v', rfl, fun _ => hregs⟩

/-- Locks held through each of two changes in turn are held through both: a lock that is on stays on. -/
theorem Controller.holdsLocks_trans {p : Prop} {c d e : Controller} (h : c.holdsLocks p d) (h' : d.holdsLocks p e) :
    c.holdsLocks p e := by
  cases c with
  | ultiMem u =>
    obtain ⟨u', rfl, hregs⟩ := h
    obtain ⟨u'', rfl, hregs'⟩ := h'
    refine ⟨u'', rfl, fun hl => ?_⟩
    have regs := hregs hl
    exact (hregs' (by rwa [UltiMem.locked, regs])).trans regs
  | finalExpansion e =>
    obtain ⟨e', rfl, hregs, hlock⟩ := h
    obtain ⟨e'', rfl, hregs', hlock'⟩ := h'
    refine ⟨e'', rfl, fun hl => ?_, ?_⟩
    · obtain ⟨ha, hb⟩ := hregs hl
      rw [← ha, ← hb]
      exact hregs' (hb ▸ hl)
    · rcases hlock' with same | cleared
      · rwa [same]
      · exact .inr cleared
  | megaCart m =>
    obtain ⟨m', rfl, hout⟩ := h
    obtain ⟨m'', rfl, hout'⟩ := h'
    exact ⟨m'', rfl, hout'.trans hout⟩
  | vicFlash v =>
    obtain ⟨v', rfl, hregs⟩ := h
    obtain ⟨v'', rfl, hregs'⟩ := h'
    refine ⟨v'', rfl, fun hl => ?_⟩
    obtain ⟨hbank, hcfg, hen⟩ := hregs hl
    rw [← hbank, ← hcfg, ← hen]
    exact hregs' (by rwa [VicFlash.locked, hen])

/-- The read hook clears the lock bit in BLK5 and touches no other lock (R246). -/
theorem Controller.holdsLocks_readHook {p : Prop} {w : Window} (hp : w = .blk5 → p) (c : Controller) :
    c.holdsLocks p (c.readHook w) := by
  rcases c.readHook_cases w with h | ⟨e, rfl, hw, h⟩ <;> rw [h]
  · exact Controller.holdsLocks_of_sameRegisters p c.sameRegisters_refl
  · exact ⟨_, rfl, fun _ => ⟨rfl, rfl⟩, .inr ⟨hp hw, rfl⟩⟩

/-- The write hook clears the lock bit in BLK5 and touches no other lock: MegaCart's control write leaves
`output_enable` (R246, R284). -/
theorem Controller.holdsLocks_writeHook {p : Prop} {w : Window} (hp : w = .blk5 → p) (c : Controller) (addr : Addr)
    (b : Byte) : c.holdsLocks p (c.writeHook w addr b) := by
  rcases c.writeHook_cases w addr b with h | ⟨e, rfl, hw, h⟩ | ⟨m, rfl, -, h⟩ <;> rw [h]
  · exact Controller.holdsLocks_of_sameRegisters p c.sameRegisters_refl
  · exact ⟨_, rfl, fun _ => ⟨rfl, rfl⟩, .inr ⟨hp hw, rfl⟩⟩
  · obtain ⟨bl, bh, ne, hm⟩ := m.controlWrite_cases addr b
    exact ⟨_, rfl, by rw [hm]⟩

/-- Bit 7 of register B locks the registers in every mode (R245). -/
theorem FinalExpansion.locked_of_regB {e : FinalExpansion} (h : e.regB.getLsbD 7 = true) : e.locked = true := by
  simp [FinalExpansion.locked, h]

/-- A register write is dropped while the registers are locked (R245). -/
theorem FinalExpansion.writeReg_of_locked {e : FinalExpansion} (h : e.locked = true) (r : FeReg) (b : Byte) :
    e.writeReg r b = e :=
  if_pos h

/-- The lock bit is no register (R244, R246). -/
theorem FinalExpansion.writeReg_lockBit (e : FinalExpansion) (r : FeReg) (b : Byte) :
    (e.writeReg r b).lockBit = e.lockBit := by
  unfold FinalExpansion.writeReg
  split_ifs
  · rfl
  · cases r <;> rfl

/-- A register write holds every lock: it is dropped where one is on (R189, R216, R245, R314). -/
theorem Controller.holdsLocks_configWrite? {c d : Controller} {addr : Addr} {b : Byte} (p : Prop)
    (h : c.configWrite? addr b = some d) : c.holdsLocks p d := by
  cases c with
  | ultiMem u =>
    obtain ⟨hanswers, hd⟩ := (Option.ite_none_right_eq_some).1 h
    obtain ⟨visible, -⟩ := (u.answersAsRegister_iff addr).1 hanswers
    cases hd
    exact ⟨_, rfl, fun hl => nomatch visible.symm.trans hl⟩
  | finalExpansion e =>
    obtain ⟨r, -, rfl⟩ := Option.map_eq_some_iff.1 h
    refine ⟨_, rfl, fun hb => ?_, .inl (e.writeReg_lockBit r b)⟩
    rw [FinalExpansion.writeReg_of_locked (FinalExpansion.locked_of_regB hb)]
    exact ⟨rfl, rfl⟩
  | megaCart m =>
    obtain ⟨-, hd⟩ := (Option.ite_none_right_eq_some).1 h
    cases hd
    exact ⟨m, rfl, rfl⟩
  | vicFlash v =>
    obtain ⟨r, -, rfl⟩ := Option.map_eq_some_iff.1 h
    refine ⟨_, rfl, fun hl => ?_⟩
    rw [VicFlash.writeReg, if_pos hl]
    exact ⟨rfl, rfl, rfl⟩

/-- A load holds every lock, but for the lock bit in BLK5. -/
theorem Controller.holdsLocks_read {p : Prop} {w : Window} (hp : w = .blk5 → p) (c : Controller) (addr : Addr)
    (busLast : Byte) (cyc : Cycle) : c.holdsLocks p (c.read w addr busLast cyc).2 :=
  Controller.holdsLocks_trans (c.holdsLocks_readHook hp)
    (Controller.holdsLocks_of_sameRegisters p (c.sameRegisters_read w addr busLast cyc))

/-- A store holds every lock, but for the lock bit in BLK5. -/
theorem Controller.holdsLocks_write {p : Prop} {w : Window} (hp : w = .blk5 → p) (c : Controller) (addr : Addr)
    (b : Byte) (rmw : Bool) : c.holdsLocks p (c.write w addr b rmw) := by
  refine Controller.holdsLocks_trans (c.holdsLocks_writeHook hp addr b) ?_
  cases hc : (c.writeHook w addr b).configWrite? addr b with
  | none => exact Controller.holdsLocks_of_sameRegisters p (Controller.sameRegisters_write hc rmw)
  | some d =>
    have written : c.write w addr b rmw = d := by simp only [Controller.write, hc]
    rw [written]
    exact Controller.holdsLocks_configWrite? p hc

/-- No operation but C.reset undoes a lock; the lock bit alone is cleared, at a CPU address in BLK5 (R246, R348). -/
theorem exec_holdsLocks {i : Instr} {s t : State} (hi : ∀ kind, i ≠ .cReset kind) (h : exec i s = .next t) :
    s.ctrl.holdsLocks (∃ addr, i.target = .cpu addr ∧ Window.blk5.contains addr.toNat) t.ctrl := by
  have blk5 : ∀ {addr w}, i.target = .cpu addr → s.ctrl.window? addr = some w → w = .blk5 →
      ∃ addr, i.target = .cpu addr ∧ Window.blk5.contains addr.toNat := by
    rintro addr w ht hw rfl
    exact ⟨addr, ht, ((s.ctrl.window?_eq_some_iff addr _).1 hw).2⟩
  cases completes_of_exec h with
  | reset kind he => exact absurd he (hi kind)
  | chipReset | chipRead | chipPeek | chipStore =>
    exact Controller.holdsLocks_of_sameRegisters _ (s.ctrl.sameRegisters_withFlash _)
  | busRead addr w busLast cyc ht _ hw => exact s.ctrl.holdsLocks_read (blk5 ht hw) addr busLast cyc
  | busWrite addr w b rmw ht _ hw => exact s.ctrl.holdsLocks_write (blk5 ht hw) addr b rmw

end Sys2Proof.Machine
end

section
/-! SUPPORT. The Final Expansion's mode in the spec's numbering, its lock, and what an access to one of its registers
answers (R241, R244, R245). -/

namespace Sys2Proof.Machine

/-! ## Mode and lock -/

/-- The number of a mode (R241). -/
def feModeNumber : FeMode → Nat
  | .start => 0
  | .flash => 1
  | .superRom => 2
  | .romRam => 3
  | .ram1 => 4
  | .superRam => 5
  | .ram2 => 6
  | .reserved => 7

theorem feModeNumber_injective : Function.Injective feModeNumber := by
  intro m m' h
  cases m <;> cases m' <;> cases h <;> rfl

/-- The number of the mode is the top three bits of register A (R241). -/
theorem FinalExpansion.mode_number (e : FinalExpansion) : feModeNumber e.mode = e.regA.toNat / 32 := by
  have field : (e.regA.extractLsb' 5 3).toNat = e.regA.toNat / 32 := by
    rw [BitVec.extractLsb'_toNat, Nat.shiftRight_eq_div_pow]
    omega
  have range : e.regA.toNat / 32 < 8 := by omega
  unfold FinalExpansion.mode
  rw [field]
  generalize e.regA.toNat / 32 = n at range
  interval_cases n <;> rfl

/-- The mode of a Final Expansion is the one with the number in register A. -/
theorem FinalExpansion.mode_eq_iff (e : FinalExpansion) (m : FeMode) :
    e.mode = m ↔ e.regA.toNat / 32 = feModeNumber m := by
  rw [← e.mode_number, feModeNumber_injective.eq_iff]

/-- The registers are locked by the lock bit in mode Start, and by bit 7 of register B in every mode (R245). -/
theorem FinalExpansion.locked_iff (e : FinalExpansion) :
    e.locked = true ↔ (e.regA.toNat / 32 = 0 ∧ e.lockBit = true) ∨ e.regB.getLsbD 7 = true := by
  have start := e.mode_eq_iff .start
  simp only [feModeNumber] at start
  simp [FinalExpansion.locked, start]

/-! ## Register accesses -/

/-- An access at an address of a locked register is open bus and drop (R244, R245). -/
theorem feRegister_locked {s : State} {e : FinalExpansion} {addr : Addr} {r : FeReg} (hs : s.ctrl = .finalExpansion e)
    (hr : feRegisterAt addr = some r) (hl : e.locked = true) (busLast b : Byte) (cyc : Cycle) (rmw : Bool) :
    feRegister r addr (.load busLast cyc) s = .next { s with dataOut := some busLast } ∧
    feRegister r addr (.store b rmw) s = .next { s with dataOut := none } := by
  obtain ⟨c, inbox, out, caller⟩ := s
  subst hs
  simp [feRegister, hr, FinalExpansion.readReg, FinalExpansion.writeReg, hl, State.answer]

/-- An access at an address of an unlocked register returns or writes all eight bits of it (R244). -/
theorem feRegister_unlocked {s : State} {e : FinalExpansion} {addr : Addr} {r : FeReg}
    (hs : s.ctrl = .finalExpansion e) (hr : feRegisterAt addr = some r) (hl : ¬ e.locked = true) (busLast b : Byte)
    (cyc : Cycle) (rmw : Bool) :
    feRegister r addr (.load busLast cyc) s = .next { s with dataOut := some (e.reg r) } ∧
    feRegister r addr (.store b rmw) s = .next (s.answer none (.finalExpansion (e.setReg b r))) := by
  obtain ⟨c, inbox, out, caller⟩ := s
  subst hs
  simp [feRegister, hr, FinalExpansion.readReg, FinalExpansion.writeReg, hl, State.answer]

/-- A C.write at an address of a register is the store to the register (R180, R244). -/
theorem exec_cWrite_eq_feRegister (r : FeReg) (addr : Addr) (b : Byte) (rmw : Bool) (s : State) :
    exec (.cWrite addr b rmw) s = feRegister r addr (.store b rmw) s :=
  (feRegister_eq_busAccess r addr (.store b rmw) s).symm

/-! ## A load from flash -/

/-- A read of the chip in READ returns array data, latches it, and stays in READ (R104, R106). -/
theorem FlashChip.read_in_read {f : FlashChip} (h : f.state = .read) (a : Nat) (cyc : Cycle) :
    f.read a cyc = (f.byteAt a, { f with lastRead := f.byteAt a }) := by
  have array := FlashChip.readByte_array (f := f) (by simp [h]) (by simp [h]) a cyc
  rw [FlashChip.read, array, h]
  obtain ⟨g, state, backing, lp, lr, dirty⟩ := f
  cases h
  rfl

/-! ## Windows of the Final Expansion -/

/-- A Final Expansion answers at the addresses of every window but IO2 (R57). -/
theorem FinalExpansion.window?_of_contains {addr : Addr} {w : Window} (e : FinalExpansion) (hw : w.contains addr.toNat)
    (hne : w ≠ .io2) : (Controller.finalExpansion e).window? addr = some w := by
  rw [Controller.window?_eq_some, windowOf_eq_some_iff]
  refine ⟨hw, ?_⟩
  cases w with
  | io2 => exact absurd rfl hne
  | ram123 | blk1 | blk2 | blk3 | blk5 | io3 => rfl

/-- BLK5 holds no register: they lie in IO3 (R244). -/
theorem FinalExpansion.not_hasRegisterAt_blk5 {n : Nat} (e : FinalExpansion) (h : Window.blk5.contains n)
    (dir : Direction) : ¬ (Controller.finalExpansion e).hasRegisterAt dir n := by
  rintro ⟨-, hhi, -⟩
  obtain ⟨hlo, -⟩ := h
  omega

end Sys2Proof.Machine
end

section
/-! SUPPORT. What a window of the Final Expansion resolves to: the cell of the mode table, and its offset in arithmetic
(R242, R243, R247 to R251). -/

namespace Sys2Proof.Machine

/-! ## Parts of the registers -/

/-- The bank number is the low five bits of register A (R242). -/
theorem FinalExpansion.bank_eq (e : FinalExpansion) : e.bank = e.regA.toNat % 32 := by
  rw [FinalExpansion.bank, BitVec.extractLsb'_toNat]
  rfl

/-- Bits 5 and 6 of register B as the bits 13 and 14 of an offset (R62, R243). -/
theorem FinalExpansion.lineInversion_inversion (e : FinalExpansion) :
    lineInversion e.inversion = e.regB.toNat / 32 % 4 * 0x2000 := by
  have a13 : e.regB.getLsbD 5 = decide (e.regB.toNat / 32 % 2 = 1) := Nat.testBit_eq_decide_div_mod_eq
  have a14 : e.regB.getLsbD 6 = decide (e.regB.toNat / 64 % 2 = 1) := Nat.testBit_eq_decide_div_mod_eq
  have split : e.regB.toNat / 32 % 4 = e.regB.toNat / 32 % 2 + 2 * (e.regB.toNat / 64 % 2) := by omega
  rw [lineInversion, FinalExpansion.inversion, a13, a14, split]
  rcases Nat.mod_two_eq_zero_or_one (e.regB.toNat / 32) with h5 | h5 <;>
    rcases Nat.mod_two_eq_zero_or_one (e.regB.toNat / 64) with h6 | h6 <;> rw [h5, h6] <;> rfl

/-- Setting bit 0 of a bank number (R251). -/
theorem one_or_eq (n : Nat) : 1 ||| n = 2 * (n / 2) + 1 := by
  refine Nat.eq_of_testBit_eq fun i => ?_
  cases i with
  | zero => simp
  | succ i =>
    have half : (2 * (n / 2) + 1) / 2 = n / 2 := by omega
    rw [Nat.testBit_succ, Nat.testBit_succ, Nat.or_div_two, half, Nat.zero_or]

/-! ## Resolution through the mode table -/

/-- The offset of an address of a block in a bank, before it wraps to the buffer (R247, R248). -/
def FinalExpansion.unwrapped (e : FinalExpansion) (b : FeBlock) (addr : Addr) (bank : Nat) : Nat :=
  (addr.toNat % 0x2000 + bank * 0x8000 + feBlockBase b) ^^^ lineInversion e.inversion

/-- The offset of a block into a buffer whose length is a power of two (R248). -/
theorem FinalExpansion.offset_two_pow (e : FinalExpansion) (b : FeBlock) (addr : Addr) (bank k : Nat) :
    e.offset b addr bank (2 ^ k) = e.unwrapped b addr bank % 2 ^ k :=
  compose_two_pow ..

/-- What a cell of the mode table says at an address of a block (R248, R249). -/
def FinalExpansion.cellAt (e : FinalExpansion) (b : FeBlock) (addr : Addr) : FeCell → Resolution
  | .off => .disabled
  | .flashBank k => .flash (e.unwrapped b addr k % e.flash.geometry.size)
  | .ramBank k => .ram .ram (e.unwrapped b addr k % e.ram.size)
  | .ramBankRO k => .ramReadOnly .ram (e.unwrapped b addr k % e.ram.size)

/-- A window of a block resolves to the cell of the mode table, unless the block is disabled (R249). -/
theorem FinalExpansion.resolve_block {w : Window} {b : FeBlock} (hb : feBlockOf w = some b) (e : FinalExpansion)
    (addr : Addr) (dir : Direction) : e.resolve w addr dir =
      if e.regB.getLsbD (feBlockBit b) then .disabled
      else e.cellAt b addr (feModeTable e.table e.mode b (e.flag b) e.bank dir) := by
  simp only [FinalExpansion.resolve, hb, FinalExpansion.resolveBlock]
  cases feModeTable e.table e.mode b (e.flag b) e.bank dir with
  | off => rfl
  | flashBank k | ramBank k | ramBankRO k =>
    simp only [FinalExpansion.cellAt, Geometry.size, Buffer.size, FinalExpansion.offset_two_pow]

/-! ## Cells that the spec requires -/

/-- In mode Start no table sees the low five bits of register A (R242). -/
theorem feModeTable_start (t : FeTable) (b : FeBlock) (f f' : Bool) (n n' : Nat) (dir : Direction) :
    feModeTable t .start b f n dir = feModeTable t .start b f' n' dir := by
  cases t <;> cases b <;> cases dir <;> rfl

/-- In mode Start every table loads BLK5 from flash bank 0 (R253). -/
theorem feModeTable_start_blk5_load (t : FeTable) (f : Bool) (n : Nat) :
    feModeTable t .start .blk5 f n .load = .flashBank 0 := by
  cases t <;> rfl

/-- In mode SuperROM every table loads the blocks but BLK0 from flash bank `n` and stores to RAM bank `1 | n` (R251). -/
theorem feModeTable_superRom (t : FeTable) {b : FeBlock} (hb : b ≠ .blk0) (f : Bool) (n : Nat) :
    feModeTable t .superRom b f n .load = .flashBank n ∧
    feModeTable t .superRom b f n .store = .ramBank (2 * (n / 2) + 1) := by
  rw [← one_or_eq]
  cases b with
  | blk0 => exact absurd rfl hb
  | blk1 | blk2 | blk3 | blk5 => cases t <;> exact ⟨rfl, rfl⟩

/-! ## The start ROM -/

/-- A flash part holds at least one sector (D4). -/
theorem Geometry.sector_le_size {g : Geometry} (h : g.wf) : 0x10000 ≤ g.size :=
  Nat.pow_le_pow_right (n := 2) (by decide) h.1

/-- With both registers 0 the first address of BLK5 loads from flash byte 0x6000 (R253). -/
theorem FinalExpansion.resolve_start_blk5_load (e : FinalExpansion) (hwf : e.flash.geometry.wf)
    (hregA : e.regA = 0x00) (hregB : e.regB = 0x00) : e.resolve .blk5 0xA000 .load = .flash 0x6000 := by
  have mode : e.mode = .start := (e.mode_eq_iff .start).2 (by rw [hregA]; rfl)
  have enabled : e.regB.getLsbD (feBlockBit .blk5) = false := by rw [hregB]; rfl
  have size := Geometry.sector_le_size hwf
  have offset : (0xA000 % 0x2000 + 0 * 0x8000 + 0x6000) ^^^ (0 / 32 % 4 * 0x2000) = 0x6000 := by decide
  rw [FinalExpansion.resolve_block rfl, enabled, mode, feModeTable_start_blk5_load]
  refine congrArg Resolution.flash ?_
  rw [FinalExpansion.unwrapped, e.lineInversion_inversion, hregB]
  exact (congrArg (· % _) offset).trans (Nat.mod_eq_of_lt (by omega))

/-! ## The default table -/

/-- The loads of the default table, by the number of the mode (R250). -/
theorem feStandardTable_load (m : FeMode) (b : FeBlock) (f : Bool) (n : Nat) : feStandardTable m b f n .load =
    if feModeNumber m = 7 then .off
    else if b = .blk0 then .ramBank 0
    else if feModeNumber m = 0 then (if b = .blk5 then .flashBank 0 else .off)
    else if feModeNumber m = 1 ∨ feModeNumber m = 2 then .flashBank n
    else if feModeNumber m = 3 then (if f then .flashBank 0 else .ramBank 1)
    else if feModeNumber m = 4 then .ramBank 1
    else if feModeNumber m = 5 then .ramBank n
    else if f then .ramBank 2 else .ramBank 1 := by
  cases m <;> cases b <;> rfl

/-- The stores of the default table, by the number of the mode (R250, R251). -/
theorem feStandardTable_store (m : FeMode) (b : FeBlock) (f : Bool) (n : Nat) : feStandardTable m b f n .store =
    if feModeNumber m = 7 then .off
    else if b = .blk0 then .ramBank 0
    else if feModeNumber m = 0 then .ramBank 1
    else if feModeNumber m = 1 then .flashBank n
    else if feModeNumber m = 2 then .ramBank (2 * (n / 2) + 1)
    else if feModeNumber m = 3 then (if f then .ramBank 2 else .ramBank 1)
    else if feModeNumber m = 4 then (if f then .ramBankRO 1 else .ramBank 1)
    else if feModeNumber m = 5 then .ramBank n
    else .ramBank 1 := by
  rw [← one_or_eq]
  cases m <;> cases b <;> rfl

end Sys2Proof.Machine
end

section
/-! The statements of 45_final_expansion.md, settled, and the one on the locks of every variant (R378). -/

namespace Sys2Proof.Proofs

open Sys2Proof.Machine

/-- Settles O46: at a register address the access is the register's, under the lock; elsewhere in IO3 nothing answers
and nothing is resolved. -/
theorem finalExpansionRegisterRows : Obligations.FinalExpansionRegisterRows := by
  intro s e addr busLast b cyc rmw hs hlo hhi locked
  obtain ⟨regA, regB, rest⟩ := feRegisterAt_io3 addr hlo hhi
  have hlocked : locked ↔ e.locked = true := e.locked_iff.symm
  rw [hlocked]
  refine ⟨fun h => ?regA, fun h => ?regB, fun h => ?openBus⟩
  case regA =>
    exact ⟨fun hl => feRegister_locked hs (regA h) hl .., fun hl => feRegister_unlocked hs (regA h) hl ..⟩
  case regB =>
    exact ⟨fun hl => feRegister_locked hs (regB h) hl .., fun hl => feRegister_unlocked hs (regB h) hl ..⟩
  case openBus =>
    obtain ⟨c, inbox, out, caller⟩ := s
    subst hs
    have io3 := e.window?_of_contains (addr := addr) (w := .io3) ⟨hlo, hhi⟩ nofun
    refine ⟨exec_cRead_resolved (p := (busLast, .finalExpansion e)) io3 ?read cyc rfl,
      exec_cWrite_resolved (c := .finalExpansion e) io3 ?write rmw rfl⟩
    case read => exact congrArg (Option.map _) (rest h)
    case write => exact congrArg (Option.map _) (rest h)

/-- Settles O47: no register answers in BLK5, so after the hook the access changes no register. -/
theorem finalExpansionLockBitHook : Obligations.FinalExpansionLockBitHook := by
  rintro ⟨c, inbox, out, caller⟩ e addr busLast b cyc rmw ⟨rfl⟩ hlo hhi
  have blk5 := e.window?_of_contains (addr := addr) (w := .blk5) ⟨hlo, hhi⟩ nofun
  refine ⟨?read, ?write⟩
  case read =>
    obtain ⟨e', hread, ha, hb, hlock⟩ := (Controller.finalExpansion e).sameRegisters_read .blk5 addr busLast cyc
    obtain ⟨-, buffers⟩ := (Controller.finalExpansion e).read_keeps .blk5 addr busLast cyc
    rw [hread] at buffers
    refine ⟨e', ((Controller.finalExpansion e).read .blk5 addr busLast cyc).1, ?_, hlock, ha, hb, buffers.1⟩
    rw [← hread]
    exact onWindow_eq _ addr .blk5 _ blk5
  case write =>
    have noRegister : ((Controller.finalExpansion e).writeHook .blk5 addr b).configWrite? addr b = none :=
      (Controller.configWrite?_eq_none_iff ..).2 (FinalExpansion.not_hasRegisterAt_blk5 _ ⟨hlo, hhi⟩ _)
    obtain ⟨e', hwrite, ha, hb, hlock⟩ := Controller.sameRegisters_write noRegister rmw
    refine ⟨e', ?_, hlock, ha, hb⟩
    rw [← hwrite]
    exact onWindow_eq _ addr .blk5 _ blk5

/-- Settles O48: the lock bit drops the first write; BLK5 loads from flash bank 0 in mode Start (R253) and the hook
clears the lock bit, so the register takes the second write. -/
theorem finalExpansionScenario : Obligations.FinalExpansionScenario := by
  rintro ⟨c, inbox, out, caller⟩ e busLast cyc hinv ⟨rfl⟩ hregA hregB hlock hread
  have regA : feRegisterAt 0x9C02 = some .a := by decide
  have locked : e.locked = true := by simp [e.locked_iff, hregA, hlock]
  have contained : Window.blk5.contains (0xA000 : Addr).toNat := ⟨by decide, by decide⟩
  have noRegister : ((Controller.finalExpansion e).readHook .blk5).configRead? 0xA000 busLast = none :=
    (Controller.configRead?_eq_none_iff ..).2 (FinalExpansion.not_hasRegisterAt_blk5 _ contained _)
  have resolved : ((Controller.finalExpansion e).readHook .blk5).resolve .blk5 0xA000 .load = .flash 0x6000 :=
    FinalExpansion.resolve_start_blk5_load (e.hook .blk5) hinv.2.1 hregA hregB
  have loaded : ((Controller.finalExpansion e).readHook .blk5).readResolved (.flash 0x6000) busLast cyc =
      (e.flash.byteAt 0x6000, .finalExpansion
        { e with lockBit := false, flash := { e.flash with lastRead := e.flash.byteAt 0x6000 } }) := by
    have chip : ((Controller.finalExpansion e).readHook .blk5).flash? = some e.flash := rfl
    refine (Controller.flashRead_eq chip 0x6000 busLast cyc).trans ?_
    rw [FlashChip.read_in_read hread]
    rfl
  have unlocked : ∀ f, ¬ ({ e with lockBit := false, flash := f } : FinalExpansion).locked = true := by
    simp [FinalExpansion.locked_iff, hregB]
  rw [← resolved] at loaded
  have blk5 := e.window?_of_contains contained nofun
  refine ⟨?dropped, _, exec_cRead_resolved blk5 noRegister cyc loaded, rfl, ?accepted⟩
  case dropped =>
    exact (exec_cWrite_eq_feRegister ..).trans (feRegister_locked rfl regA locked busLast 0xAA cyc false).2
  case accepted =>
    exact ⟨_, (exec_cWrite_eq_feRegister ..).trans
      (feRegister_unlocked rfl regA (unlocked _) busLast 0xAA cyc false).2, rfl⟩

/-- Settles O49: the cells of the default table, by block and number of the mode, at the offset of the cell's buffer; in
mode Start no table sees the bits that may differ. -/
theorem finalExpansionResolution : Obligations.FinalExpansionResolution := by
  refine ⟨?standard, ?start⟩
  case standard =>
    rintro e w addr bit base mode n htable hw rfl rfl
    obtain ⟨b, hb, rfl, rfl, hram123, hblk5⟩ : ∃ b, feBlockOf w = some b ∧ bit = feBlockBit b ∧ base = feBlockBase b ∧
        (w = .ram123 ↔ b = .blk0) ∧ (w = .blk5 ↔ b = .blk5) := by
      simp only [List.mem_cons, List.not_mem_nil, or_false, Prod.mk.injEq] at hw
      rcases hw with ⟨rfl, rfl, rfl⟩ | ⟨rfl, rfl, rfl⟩ | ⟨rfl, rfl, rfl⟩ | ⟨rfl, rfl, rfl⟩ | ⟨rfl, rfl, rfl⟩ <;>
        exact ⟨_, rfl, rfl, rfl, by decide, by decide⟩
    intro flag off flash ram
    refine ⟨?load, ?store, fun dir => rfl⟩
    all_goals
      simp only [Controller.resolve, FinalExpansion.resolve_block hb, htable, feModeTable, feStandardTable_load,
        feStandardTable_store, e.mode_number, e.bank_eq, FinalExpansion.flag, hram123, hblk5, ite_or,
        apply_ite (e.cellAt b addr)]
      simp only [FinalExpansion.cellAt, FinalExpansion.unwrapped, e.lineInversion_inversion, flag, flash, ram, off]
  case start =>
    intro e w addr dir regA hA hA'
    have mode : e.mode = .start := (e.mode_eq_iff .start).2 hA
    have mode' : ({ e with regA := regA } : FinalExpansion).mode = .start := (FinalExpansion.mode_eq_iff _ .start).2 hA'
    simp only [Controller.resolve]
    cases hb : feBlockOf w with
    | none => simp only [FinalExpansion.resolve, hb]
    | some b =>
      simp only [FinalExpansion.resolve_block hb, mode, mode']
      rw [feModeTable_start]
      rfl

/-- Settles O50: the cells that every table has in mode SuperROM. -/
theorem superRomStoreBank : Obligations.SuperRomStoreBank := by
  rintro e w b addr n hb hne hmode rfl henabled
  have mode : e.mode = .superRom := (e.mode_eq_iff .superRom).2 hmode
  obtain ⟨load, store⟩ := feModeTable_superRom e.table hne (e.flag b) e.bank
  simp only [Controller.resolve, FinalExpansion.resolve_block hb, henabled, mode, load, store, ← e.bank_eq]
  exact ⟨rfl, rfl⟩

/-- Settles O57: every operation but C.reset holds the locks of the variant it finds. -/
theorem locksHeldUntilReset : Obligations.LocksHeldUntilReset := by
  intro i s t hi h
  have held := exec_holdsLocks hi h
  refine ⟨fun u hs hl => ?ultiMem, fun e hs => ?finalExpansion, fun m hs => ?megaCart, fun v hs hl => ?vicFlash⟩ <;>
    rw [hs] at held
  case ultiMem =>
    obtain ⟨u', ht, hregs⟩ := held
    exact ⟨u', ht, hregs hl⟩
  case finalExpansion =>
    obtain ⟨e', ht, hregs, hlock⟩ := held
    refine ⟨e', ht, hregs, fun hclear => ?_, fun hout hset => ?_⟩
    · rcases hlock with same | ⟨-, cleared⟩
      · exact same.trans hclear
      · exact cleared
    · rcases hlock with same | ⟨⟨addr, ht, hin⟩, -⟩
      · exact same.trans hset
      · exact absurd hin (hout addr ht)
  case megaCart => exact held
  case vicFlash =>
    obtain ⟨v', ht, hregs⟩ := held
    obtain ⟨hbank, hcfg, hen⟩ := hregs (by rw [VicFlash.locked, hl]; rfl)
    exact ⟨v', ht, hen.trans hl, hbank, hcfg⟩

end Sys2Proof.Proofs
end

section
/-! SUPPORT. What a window of a MegaCart resolves to in arithmetic: the effective banks and their enable bits, the
selection of a buffer, and the offsets at the default sizes, which never wrap (R280, R281, R285 to R287). -/

namespace Sys2Proof.Machine

/-! ## Effective banks -/

/-- The low bank in numbers: 0x7F while `output_enable` is clear (R281). -/
theorem MegaCart.toNat_effectiveLow (m : MegaCart) :
    m.effectiveLow.toNat = if m.outputEnable then m.bankLow.toNat else 0x7F :=
  apply_ite BitVec.toNat ..

/-- The high bank in numbers (R281). -/
theorem MegaCart.toNat_effectiveHigh (m : MegaCart) :
    m.effectiveHigh.toNat = if m.outputEnable then m.bankHigh.toNat else 0x7F :=
  apply_ite BitVec.toNat ..

/-- Bit 6 of a bank register, `ram_we` in the high one (R281). -/
theorem getLsbD_six_iff (b : Byte) : b.getLsbD 6 = true ↔ b.toNat / 0x40 % 2 = 1 := by
  have bit : b.getLsbD 6 = decide (b.toNat / 0x40 % 2 = 1) := Nat.testBit_eq_decide_div_mod_eq
  rw [bit, decide_eq_true_iff]

/-- Bit 7 of a bank register, which turns its ROM off, is set in the upper half of the bytes (R281). -/
theorem getLsbD_seven_iff (b : Byte) : b.getLsbD 7 = true ↔ 0x80 ≤ b.toNat := by
  have bit : b.getLsbD 7 = decide (b.toNat / 0x80 % 2 = 1) := Nat.testBit_eq_decide_div_mod_eq
  rw [bit, decide_eq_true_iff]
  omega

/-- Bit 7 of a bank register is clear in the lower half of the bytes (R281). -/
theorem getLsbD_seven_eq_false_iff (b : Byte) : b.getLsbD 7 = false ↔ b.toNat < 0x80 := by
  rw [← Bool.not_eq_true, getLsbD_seven_iff, Nat.not_le]

/-- The bank number is the low seven bits, all of a byte whose bit 7 is clear (R281, R286). -/
theorem toNat_bank_of_lt {b : Byte} (h : b.toNat < 0x80) : (b.extractLsb' 0 7).toNat = b.toNat := by
  rw [BitVec.extractLsb'_toNat]
  exact Nat.mod_eq_of_lt h

/-! ## Selection of a buffer -/

/-- BLK1, BLK2, BLK3 by the values of the effective banks (R285). -/
theorem MegaCart.lowBlock_eq (m : MegaCart) (base : Nat) (addr : Addr) : m.lowBlock base addr =
    if m.effectiveLow.toNat < 0x80 then m.lowRom addr
    else if m.effectiveHigh.toNat ≥ 0x80 then m.ramAt base addr
    else .disabled := by
  simp only [MegaCart.lowBlock, getLsbD_seven_eq_false_iff, getLsbD_seven_iff, ge_iff_le]

/-- BLK5 by the values of the effective banks (R285). -/
theorem MegaCart.highBlock_eq (m : MegaCart) (addr : Addr) : m.highBlock addr =
    if m.effectiveHigh.toNat < 0x80 then m.highRom addr
    else if m.effectiveLow.toNat < 0x80 then m.lowRom addr
    else m.ramAt 0x6000 addr := by
  simp only [MegaCart.highBlock, getLsbD_seven_eq_false_iff]

/-! ## Offsets at the default sizes -/

/-- The offset formula without inversion, where the last byte of the 8 KiB still lies in the buffer (R61). -/
theorem compose_of_le_size {bank stride base : Nat} {r : Buffer} (addr : Addr)
    (h : bank * stride + base + 0x2000 ≤ r.size) :
    compose addr windowMask bank stride base 0 r.size = base + bank * stride + addr.toNat % 0x2000 := by
  rw [Buffer.size] at h ⊢
  rw [compose_two_pow, Nat.xor_zero, Nat.mod_eq_of_lt] <;> omega

/-- The same in bank 0 (R61). -/
theorem compose_bank_zero_of_le_size {base : Nat} {r : Buffer} (addr : Addr) (h : base + 0x2000 ≤ r.size) :
    compose addr windowMask 0 0 base 0 r.size = base + addr.toNat % 0x2000 :=
  compose_of_le_size addr (by omega)

/-- ROM of the low half: 128 banks of 8 KiB from offset 0 (R280, R286). -/
theorem MegaCart.lowRom_eq {m : MegaCart} (hrom : m.rom.size = 0x200000) (hbank : m.effectiveLow.toNat < 0x80)
    (addr : Addr) : m.lowRom addr = .rom (m.effectiveLow.toNat * 0x2000 + addr.toNat % 0x2000) := by
  rw [MegaCart.lowRom, toNat_bank_of_lt hbank, compose_of_le_size, Nat.zero_add]
  omega

/-- ROM of the high half: 128 banks of 8 KiB from offset 0x100000 (R280, R286). -/
theorem MegaCart.highRom_eq {m : MegaCart} (hrom : m.rom.size = 0x200000) (hbank : m.effectiveHigh.toNat < 0x80)
    (addr : Addr) :
    m.highRom addr = .rom (0x100000 + m.effectiveHigh.toNat * 0x2000 + addr.toNat % 0x2000) := by
  rw [MegaCart.highRom, toNat_bank_of_lt hbank, compose_of_le_size]
  omega

/-- RAM at the base of one of the four blocks, read-only without `ram_we` (R280, R286). -/
theorem MegaCart.ramAt_eq {m : MegaCart} (hram : m.ram.size = 0x8000) {base : Nat} (hbase : base ≤ 0x6000)
    (addr : Addr) : m.ramAt base addr =
      if m.effectiveHigh.toNat / 0x40 % 2 = 1 then .ram .ram (base + addr.toNat % 0x2000)
      else .ramReadOnly .ram (base + addr.toNat % 0x2000) := by
  have fits : base + 0x2000 ≤ m.ram.size := by omega
  simp only [MegaCart.ramAt, getLsbD_six_iff, compose_bank_zero_of_le_size addr fits]

/-- NVRAM at the low 13 address bits, while it is enabled (R280, R287). -/
theorem MegaCart.nvramWindow_eq {m : MegaCart} (hnvram : m.nvram.size = 0x2000) (addr : Addr) :
    m.nvramWindow addr = if m.nvramEnable then .ram .nvram (addr.toNat % 0x2000) else .disabled := by
  have fits : 0 + 0x2000 ≤ m.nvram.size := by omega
  rw [MegaCart.nvramWindow, compose_bank_zero_of_le_size addr fits, Nat.zero_add]

end Sys2Proof.Machine
end

section
/-! The statement of 46_megacart.md on resolution, settled. -/

namespace Sys2Proof.Proofs

open Sys2Proof.Machine

/-- Settles O52: the effective banks select the buffer, and at the default sizes no offset wraps. -/
theorem megaCartResolution : Obligations.MegaCartResolution := by
  intro m w addr dir bl bh lo hrom hram hnvram hbl hbh hlo
  obtain rfl : bl = m.effectiveLow.toNat := hbl.trans m.toNat_effectiveLow.symm
  obtain rfl : bh = m.effectiveHigh.toNat := hbh.trans m.toNat_effectiveHigh.symm
  subst hlo
  intro ramAt lowBlock
  have ram {base : Nat} (hbase : base ≤ 0x6000) : m.ramAt base addr = ramAt (base + addr.toNat % 0x2000) :=
    MegaCart.ramAt_eq hram hbase addr
  have low {base : Nat} (hbase : base ≤ 0x6000) : m.lowBlock base addr = lowBlock base := by
    rw [m.lowBlock_eq, ram hbase]
    exact if_ctx_congr Iff.rfl (fun hbank => MegaCart.lowRom_eq hrom hbank addr) fun _ => rfl
  cases w with
  | blk1 | blk2 | blk3 => exact low (by decide)
  | blk5 =>
    refine (m.highBlock_eq addr).trans ?_
    rw [ram (Nat.le_refl _)]
    exact if_ctx_congr Iff.rfl (fun hbank => MegaCart.highRom_eq hrom hbank addr) fun _ =>
      if_ctx_congr Iff.rfl (fun hbank => MegaCart.lowRom_eq hrom hbank addr) fun _ => rfl
  | ram123 | io2 | io3 => exact MegaCart.nvramWindow_eq hnvram addr

end Sys2Proof.Proofs
end

section
/-! SUPPORT. The registers of a VIC Flash Plugin under the lock, what its windows resolve to in arithmetic, and what
write-protect keeps of the chip (R312 to R318). -/

namespace Sys2Proof.Machine

/-! ## Register accesses -/

/-- An access at an address of a locked register is open bus and drop (R314). -/
theorem vfpRegister_locked {s : State} {v : VicFlash} {addr : Addr} {r : VfpReg} (hs : s.ctrl = .vicFlash v)
    (hr : vfpRegisterAt addr = some r) (hl : v.cfgEn = false) (busLast b : Byte) (cyc : Cycle) (rmw : Bool) :
    vfpRegister r addr (.load busLast cyc) s = .next { s with dataOut := some busLast } ∧
    vfpRegister r addr (.store b rmw) s = .next { s with dataOut := none } := by
  obtain ⟨c, inbox, out, caller⟩ := s
  subst hs
  simp [vfpRegister, hr, VicFlash.readReg, VicFlash.writeReg, VicFlash.locked, hl, State.answer]

/-- An access at an address of an answering register returns or writes all eight bits of it, and the write latches
`cfg_en` (R313 to R315). -/
theorem vfpRegister_unlocked {s : State} {v : VicFlash} {addr : Addr} {r : VfpReg} (hs : s.ctrl = .vicFlash v)
    (hr : vfpRegisterAt addr = some r) (hl : v.cfgEn = true) (busLast b : Byte) (cyc : Cycle) (rmw : Bool) :
    vfpRegister r addr (.load busLast cyc) s = .next { s with dataOut := some (v.reg r) } ∧
    vfpRegister r addr (.store b rmw) s = .next (s.answer none (.vicFlash (v.setReg b r).latch)) := by
  obtain ⟨c, inbox, out, caller⟩ := s
  subst hs
  simp [vfpRegister, hr, VicFlash.readReg, VicFlash.writeReg, VicFlash.locked, hl, State.answer]

/-! ## Fields of the configuration register -/

/-- `ramsel` is bits 4:3 of the configuration register (R312). -/
theorem VicFlash.ramSelect_eq_iff (v : VicFlash) (x : BitVec 2) :
    v.ramSelect = x ↔ v.cfgReg.toNat / 8 % 4 = x.toNat := by
  rw [← BitVec.toNat_inj, VicFlash.ramSelect, toNat_field]
  exact Iff.rfl

/-- Bit 5 of a configuration register, which puts RAM in BLK5 (R312). -/
theorem getLsbD_five_iff (b : Byte) : b.getLsbD 5 = true ↔ b.toNat / 32 % 2 = 1 := by
  have bit : b.getLsbD 5 = decide (b.toNat / 32 % 2 = 1) := Nat.testBit_eq_decide_div_mod_eq
  rw [bit, decide_eq_true_iff]

/-- The half of the flash is bit 0 of the configuration register (R312). -/
theorem VicFlash.flashHalf_eq (v : VicFlash) : v.flashHalf = v.cfgReg.toNat % 2 * 0x200000 := by
  rw [VicFlash.flashHalf, BitVec.extractLsb'_toNat, Nat.shiftRight_zero, Nat.pow_one]

/-! ## Offsets at the default sizes -/

/-- RAM at the base of one of the three areas, which never wraps (R310, R317). -/
theorem VicFlash.ramAt_eq {v : VicFlash} (hram : v.ram.size = 0x8000) {base : Nat} (hbase : base ≤ 0x6000)
    (addr : Addr) : v.ramAt base addr = .ram .ram (base + addr.toNat % 0x2000) := by
  rw [VicFlash.ramAt, compose_bank_zero_of_le_size]
  omega

/-- Flash in BLK5: 256 banks of 8 KiB in the selected half, the last of which ends with the chip (R310, R317). -/
theorem VicFlash.compose_flash_eq {v : VicFlash} (hflash : v.flash.geometry.size = 0x400000) (addr : Addr) :
    compose addr windowMask v.bankReg.toNat 0x2000 v.flashHalf 0 v.flash.geometry.size =
      addr.toNat % 0x2000 + v.bankReg.toNat * 0x2000 + v.cfgReg.toNat % 2 * 0x200000 := by
  have bank := v.bankReg.isLt
  have log : v.flash.geometry.size = 2 ^ v.flash.geometry.sizeLog := rfl
  rw [log, compose_two_pow, ← log, hflash, VicFlash.flashHalf_eq, Nat.xor_zero, Nat.mod_eq_of_lt]
  omega

/-! ## Write-protect -/

/-- Whatever keeps the fixed parts of a VIC Flash Plugin leaves a VIC Flash Plugin (R4). -/
theorem VicFlash.exists_of_sameFixed {v : VicFlash} {d : Controller} (h : (Controller.vicFlash v).sameFixed d) :
    ∃ v', d = .vicFlash v' := by
  cases d with
  | vicFlash v' => exact ⟨v', rfl⟩
  | ultiMem _ | finalExpansion _ | megaCart _ => exact h.elim

/-- Under write-protect a write through any window leaves the chip, its sequencer state included (R185, R318). -/
theorem Controller.flash?_write_of_writeProtected {c : Controller} {f : FlashChip} (hf : c.flash? = some f)
    (hp : c.writeProtected = true) (w : Window) (addr : Addr) (b : Byte) (rmw : Bool) :
    (c.write w addr b rmw).flash? = some f := by
  rcases Controller.flash?_write hf w addr b rmw with h | ⟨o, -, hopen, -⟩
  · exact h
  · cases hp.symm.trans hopen

/-- Under write-protect no operation at a CPU address delivers a store to the chip (R318). -/
theorem State.not_deliversStore_of_writeProtected {s : State} {i : Instr} {addr : Addr} (ht : i.target = .cpu addr)
    (hp : s.ctrl.writeProtected = true) (o : Nat) (b : Byte) (rmw : Bool) : ¬ s.deliversStore i o b rmw := by
  rintro ⟨-, hdelivered⟩
  rw [ht] at hdelivered
  obtain ⟨w, -, -, hopen⟩ := hdelivered
  cases hp.symm.trans hopen

/-- Under write-protect no operation at a CPU address changes the contents of the chip (R318, R382). -/
theorem exec_sameContents_of_writeProtected {i : Instr} {s t : State} {f : FlashChip} {addr : Addr}
    (hf : s.ctrl.flash? = some f) (ht : i.target = .cpu addr) (hp : s.ctrl.writeProtected = true)
    (h : exec i s = .next t) : ∃ g, t.ctrl.flash? = some g ∧ f.sameContents g := by
  have notReset : ∀ kind, i ≠ .cReset kind := by
    rintro kind rfl
    cases ht
  obtain ⟨g, hg, -, same | ⟨o, b, rmw, hd, -⟩⟩ := exec_latches hf notReset h
  · exact ⟨g, hg, same⟩
  · exact absurd hd (State.not_deliversStore_of_writeProtected ht hp o b rmw)

end Sys2Proof.Machine
end

section
/-! The statements of 47_vic_flash_plugin.md, settled. -/

namespace Sys2Proof.Proofs

open Sys2Proof.Machine

/-- Settles O53: the lowest bit of an IO2 address selects the register of the row, and `cfg_en` says whether it
answers. -/
theorem vicFlashRegisterRows : Obligations.VicFlashRegisterRows := by
  intro s v addr busLast b cyc rmw hs hlo hhi
  obtain ⟨bank, cfg⟩ := vfpRegisterAt_io2 addr hlo hhi
  refine ⟨fun h => ?bank, fun h => ?cfg⟩
  case bank => exact ⟨fun hl => vfpRegister_locked hs (bank h) hl .., fun hl => vfpRegister_unlocked hs (bank h) hl ..⟩
  case cfg => exact ⟨fun hl => vfpRegister_locked hs (cfg h) hl .., fun hl => vfpRegister_unlocked hs (cfg h) hl ..⟩

/-- Settles O54: the fields of the configuration register select the buffer, and at the default sizes no offset
wraps. -/
theorem vicFlashResolution : Obligations.VicFlashResolution := by
  rintro v addr dir lo sel hflash hram rfl rfl
  have select := v.ramSelect_eq_iff
  refine ⟨?ram123, ?blk1, ?blk5⟩
  case ram123 =>
    refine if_ctx_congr (or_congr (select 1) (select 2)) (fun _ => ?_) fun _ => rfl
    rw [VicFlash.ramAt_eq hram (by decide), Nat.zero_add]
  case blk1 =>
    exact if_ctx_congr (select 3) (fun _ => VicFlash.ramAt_eq hram (by decide) addr) fun _ => rfl
  case blk5 =>
    exact if_ctx_congr (getLsbD_five_iff v.cfgReg) (fun _ => VicFlash.ramAt_eq hram (by decide) addr) fun _ =>
      congrArg Resolution.flash (VicFlash.compose_flash_eq hflash addr)

/-- Settles O55: write-protect drops every store that a window resolves to flash, and a load changes no contents. -/
theorem writeProtectFreezesFlash : Obligations.WriteProtectFreezesFlash := by
  rintro ⟨c, inbox, out, caller⟩ v addr w b rmw ⟨rfl⟩ hp hw
  refine ⟨?write, fun i t ht h => ?anyOperation⟩
  case write =>
    obtain ⟨v', hv'⟩ := VicFlash.exists_of_sameFixed ((Controller.vicFlash v).sameFixed_write w addr b rmw)
    have chip := Controller.flash?_write_of_writeProtected (c := .vicFlash v) rfl hp w addr b rmw
    rw [hv'] at chip
    refine ⟨v', ?_, Option.some.inj chip⟩
    rw [← hv']
    exact onWindow_eq _ addr w _ hw
  case anyOperation =>
    obtain ⟨v', hv'⟩ := VicFlash.exists_of_sameFixed (exec_sameFixed h)
    obtain ⟨g, hg, hlast, hbacking, hdirty⟩ :=
      exec_sameContents_of_writeProtected (s := ⟨.vicFlash v, inbox, out, caller⟩) rfl ht hp h
    rw [hv'] at hg
    obtain rfl := Option.some.inj hg
    exact ⟨v', hv', hbacking, hdirty, hlast⟩

end Sys2Proof.Proofs
end

section
/-! SUPPORT. The decoder inverted: a word decodes exactly to the well-formed operation it is the word of, and bytes
decode exactly where an encoding stands in front (log 1). -/

namespace Sys2Proof

/-! ## Words -/

open Laws in
/-- The row that the word of an operation names is that operation, with its operands. -/
theorem decodeRow_encodeWord : ∀ i : Instr, decodeRow (encodeWord i) = .ok i
  | .fReset => RowRoundTrip.fReset
  | .fRead .. => RowRoundTrip.fRead ..
  | .fStore .. => RowRoundTrip.fStore ..
  | .fStoreRmw .. => RowRoundTrip.fStoreRmw ..
  | .fPeek _ => RowRoundTrip.fPeek _
  | .cRead .. => RowRoundTrip.cRead ..
  | .cWrite .. => RowRoundTrip.cWrite ..
  | .cConfigRead .. => RowRoundTrip.cConfigRead ..
  | .cConfigWrite .. => RowRoundTrip.cConfigWrite ..
  | .cReset _ => RowRoundTrip.cReset _
  | .unlock1 _ => RowRoundTrip.unlock1 _
  | .readIgnore .. => RowRoundTrip.readIgnore ..
  | .unlock2 _ => RowRoundTrip.unlock2 _
  | .magic1Abort .. => RowRoundTrip.magic1Abort ..
  | .autoselect _ => RowRoundTrip.autoselect _
  | .programSetup _ => RowRoundTrip.programSetup _
  | .eraseSetup _ => RowRoundTrip.eraseSetup _
  | .magic2Abort .. => RowRoundTrip.magic2Abort ..
  | .programData .. => RowRoundTrip.programData ..
  | .eraseUnlock1 _ => RowRoundTrip.eraseUnlock1 _
  | .eraseMagic1Abort .. => RowRoundTrip.eraseMagic1Abort ..
  | .eraseUnlock2 _ => RowRoundTrip.eraseUnlock2 _
  | .eraseMagic2Abort .. => RowRoundTrip.eraseMagic2Abort ..
  | .chipErase _ => RowRoundTrip.chipErase _
  | .sectorErase _ => RowRoundTrip.sectorErase _
  | .eraseSelectAbort .. => RowRoundTrip.eraseSelectAbort ..
  | .eraseSuspend _ => RowRoundTrip.eraseSuspend _
  | .sectorEraseIgnore .. => RowRoundTrip.sectorEraseIgnore ..
  | .eraseResume _ => RowRoundTrip.eraseResume _
  | .sectorEraseSuspendIgnore .. => RowRoundTrip.sectorEraseSuspendIgnore ..
  | .resetCmdAutoselect _ => RowRoundTrip.resetCmdAutoselect _
  | .autoselectIgnore .. => RowRoundTrip.autoselectIgnore ..
  | .resetCmdError _ => RowRoundTrip.resetCmdError _
  | .byteProgramErrorIgnore .. => RowRoundTrip.byteProgramErrorIgnore ..
  | .byteProgramHappeningIgnore .. => RowRoundTrip.byteProgramHappeningIgnore ..
  | .chipEraseIgnore .. => RowRoundTrip.chipEraseIgnore ..
  | .umRegs0 _ => RowRoundTrip.umRegs0 _
  | .umRegs1 _ => RowRoundTrip.umRegs1 _
  | .umRegs2 _ => RowRoundTrip.umRegs2 _
  | .umRegs3 _ => RowRoundTrip.umRegs3 _
  | .umRegs4 _ => RowRoundTrip.umRegs4 _
  | .umRegs5 _ => RowRoundTrip.umRegs5 _
  | .umRegs6 _ => RowRoundTrip.umRegs6 _
  | .umRegs7 _ => RowRoundTrip.umRegs7 _
  | .umRegs8 _ => RowRoundTrip.umRegs8 _
  | .umRegs9 _ => RowRoundTrip.umRegs9 _
  | .umRegs10 _ => RowRoundTrip.umRegs10 _
  | .umRegs11 _ => RowRoundTrip.umRegs11 _
  | .umRegs12 _ => RowRoundTrip.umRegs12 _
  | .umRegs13 _ => RowRoundTrip.umRegs13 _
  | .umRegs14 _ => RowRoundTrip.umRegs14 _
  | .umRegs15 _ => RowRoundTrip.umRegs15 _
  | .feRegA .. => RowRoundTrip.feRegA ..
  | .feRegB .. => RowRoundTrip.feRegB ..
  | .mcBankLow .. => RowRoundTrip.mcBankLow ..
  | .mcBankHigh .. => RowRoundTrip.mcBankHigh ..
  | .mcControl .. => RowRoundTrip.mcControl ..
  | .vfpBankReg .. => RowRoundTrip.vfpBankReg ..
  | .vfpCfgReg .. => RowRoundTrip.vfpCfgReg ..

/-- A word decodes to exactly those well-formed operations whose word it is. -/
theorem decodeWord_eq_ok_iff (w : HostWord) (i : Instr) :
    decodeWord w = .ok i ↔ w = encodeWord i ∧ i.wellFormed = true := by
  constructor
  · intro h
    refine ⟨?_, Machine.wellFormed_of_decodeWord h⟩
    unfold decodeWord at h
    split at h
    · cases h
    · split_ifs at h with henc
      cases h
      exact (not_not.1 henc).symm
  · rintro ⟨rfl, hwf⟩
    simp [decodeWord, decodeRow_encodeWord, hwf]

/-! ## Bytes -/

/-- The decoder reads the word whose bytes stand in front. -/
theorem decode_bytes_append (w : HostWord) (rest : List Byte) :
    decode (w.bytes ++ rest) = (decodeWord w).map fun i => (i, rest) := by
  obtain ⟨data, selector, off, cyc, busLast, flags⟩ := w
  simp only [HostWord.bytes, fieldBytes, List.cons_append, List.nil_append, decode, fieldOfBytes_extract]
  cases decodeWord ⟨data, selector, off, cyc, busLast, flags⟩ <;> rfl

/-- What decodes has the bytes of a word in front. -/
theorem exists_bytes_append_of_decode {bs rest : List Byte} {i : Instr} (h : decode bs = .ok (i, rest)) :
    ∃ w : HostWord, bs = w.bytes ++ rest ∧ decodeWord w = .ok i := by
  unfold decode at h
  split at h
  · split at h
    · cases h
    · rename_i hw
      cases h
      refine ⟨_, ?_, hw⟩
      simp only [HostWord.bytes, fieldBytes_fieldOfBytes, List.cons_append, List.nil_append]
  · cases h

/-- Bytes decode to an operation and a rest exactly where the operation is well-formed and its encoding stands in front
of that rest. -/
theorem decode_eq_ok_iff (bs rest : List Byte) (i : Instr) :
    decode bs = .ok (i, rest) ↔ i.wellFormed = true ∧ bs = encode i ++ rest := by
  constructor
  · intro h
    obtain ⟨w, rfl, hw⟩ := exists_bytes_append_of_decode h
    obtain ⟨rfl, hwf⟩ := (decodeWord_eq_ok_iff w i).1 hw
    exact ⟨hwf, rfl⟩
  · rintro ⟨hwf, rfl⟩
    rw [encode, decode_bytes_append, (decodeWord_eq_ok_iff _ i).2 ⟨rfl, hwf⟩]
    rfl

/-- Numbered bits whose bytes are the encoding of a well-formed operation decode to it. -/
theorem decodeTableWord_of_encode {nbits w : Nat} {i : Instr} (hw : tableBytes nbits w = encode i)
    (hwf : i.wellFormed = true) : decodeTableWord nbits w = some i := by
  have decoded := (decode_eq_ok_iff (tableBytes nbits w) [] i).2 ⟨hwf, by rw [hw, List.append_nil]⟩
  simp only [decodeTableWord, decoded]

end Sys2Proof
end

section
/-! The statements of 30_encoding.md on words and bytes, settled. -/

namespace Sys2Proof.Proofs

/-- Settles O6: the decoder finds the encoding that stands in front. -/
theorem decodeOfEncode : Obligations.DecodeOfEncode :=
  fun i rest hwf => (decode_eq_ok_iff (encode i ++ rest) rest i).2 ⟨hwf, rfl⟩

/-- Settles O7: the decoder accepts a word only as the encoding of a well-formed operation. -/
theorem decodedBytesAreEncoded : Obligations.DecodedBytesAreEncoded :=
  fun bs rest i h => (decode_eq_ok_iff bs rest i).1 h

/-- Settles O8: each command byte, with every other byte 0, is the encoding of its row at offset 0. -/
theorem commandBytesDecode : Obligations.CommandBytesDecode :=
  ⟨decodeTableWord_of_encode (by decide) rfl, decodeTableWord_of_encode (by decide) rfl,
    decodeTableWord_of_encode (by decide) rfl, decodeTableWord_of_encode (by decide) rfl,
    decodeTableWord_of_encode (by decide) rfl, decodeTableWord_of_encode (by decide) rfl,
    decodeTableWord_of_encode (by decide) rfl, decodeTableWord_of_encode (by decide) rfl,
    decodeTableWord_of_encode (by decide) rfl⟩

end Sys2Proof.Proofs
end

section
/-! SUPPORT. The step where no operation stands in front of the inbox, and what attach makes of a chip (R3, R16,
R361). -/

namespace Sys2Proof.Machine

/-! ## The step with nothing to run -/

/-- With nothing issued a step changes nothing (R3). -/
theorem step_of_inbox_eq_nil {s : State} (h : s.inbox = []) : step s = .next s := by
  simp only [step, h]

/-- A step refuses bytes that are no operation, with the decoder's reason (log 1). -/
theorem step_of_decode_error {s : State} {e : DecodeError} (hne : s.inbox ≠ []) (h : decode s.inbox = .error e) :
    step s = .refused (.badWord e) := by
  unfold step
  split
  · exact absurd ‹_› hne
  · rw [h]

/-! ## Attach -/

/-- The reset that ends attach finds the latches of the chip at their power-on values already (R16, R361). -/
theorem FlashChip.resetBy_attach (g : Geometry) (back : Memory) :
    (FlashChip.attach g back).resetBy .powerOn = ⟨g, .read, back, 0x00, 0x00, false⟩ := rfl

/-- The default reset value of each UltiMem register (R366). -/
theorem umResetRegs_get (i : Fin 16) : Config.umResetRegs.get i = if i = 2 then 0x40 else 0x00 := by
  revert i
  decide

/-- A blank chip reads as erased everywhere (log 5). -/
theorem FlashChip.byteAt_powerOn (g : Geometry) (o : Nat) : (FlashChip.powerOn g).byteAt o = 0xFF := rfl

end Sys2Proof.Machine
end

section
/-! The statements on attach and on a step with nothing to run, settled. -/

namespace Sys2Proof.Proofs

open Sys2Proof.Machine

/-- Settles O5. -/
theorem stepWithNothingToRun : Obligations.StepWithNothingToRun :=
  fun _ => ⟨step_of_inbox_eq_nil, fun _ => step_of_decode_error⟩

/-- Settles O1: attach sets the registers to the values that its reset gives them, so only the reset of the chip is
left; the reset state is the attached state of an UltiMem. -/
theorem attachedState : Obligations.AttachedState := by
  refine ⟨fun p ram g back => ?ultiMem, fun t ram g back => ?finalExpansion, fun _ _ _ => rfl,
    fun ram g back => ?vicFlash, ?reset⟩
  case ultiMem => exact ⟨_, rfl, rfl, rfl, rfl, FlashChip.resetBy_attach g back⟩
  case finalExpansion => exact ⟨_, rfl, rfl, rfl, rfl, rfl, rfl, FlashChip.resetBy_attach g back⟩
  case vicFlash =>
    exact congrArg (fun f => Controller.vicFlash ⟨0x00, 0x40, true, ram, f⟩) (FlashChip.resetBy_attach g back)
  case reset => exact ⟨_, rfl, umResetRegs_get, FlashChip.byteAt_powerOn Config.umGeometry, rfl⟩

end Sys2Proof.Proofs
end

section
/-! SUPPORT. The bytes and the sequencer state that one transition can lead to (R148, R149). -/

namespace Sys2Proof.Machine

/-! ## The array after one transition -/

/-- A byte that a transition changes lies at the offset programmed, or in the part of the array erased (R149). -/
theorem FlashChip.transition_changes {f : FlashChip} {a o : Nat} {b : Byte}
    (h : (f.transition a b).byteAt o ≠ f.byteAt o) :
    (f.state = .byteProgram ∧ o = a) ∨ (f.state = .eraseSelect ∧ b = 0x10 ∧ f.geometry.magic1 a = true) ∨
    (f.state = .eraseSelect ∧ b = 0x30 ∧ o / 0x10000 = a / 0x10000) := by
  rcases f.transition_cases a b with ⟨-, q, ht⟩ | ⟨hq, ht⟩ | ⟨hq, hb, hmagic, -⟩ | ⟨hq, hb, ht⟩
  · rw [ht] at h
    exact absurd rfl h
  · refine .inl ⟨hq, ?_⟩
    by_contra ho
    rw [ht, f.programCycle_eq] at h
    exact h (Memory.byteAt_write_ne f.backing a o _ ho)
  · exact .inr (.inl ⟨hq, hb, hmagic⟩)
  · refine .inr (.inr ⟨hq, hb, ?_⟩)
    by_contra ho
    rw [ht] at h
    exact h ((f.byteAt_eraseSector a o).trans (if_neg ho))

/-! ## The successors of a sequencer state -/

/-- The states one transition leads to, by the state it starts in (R148). -/
def SeqState.successors : SeqState → List SeqState
  | .read => [.magic1, .read]
  | .magic1 => [.magic2, .read]
  | .magic2 => [.autoselect, .byteProgram, .eraseMagic1, .read]
  | .autoselect => [.read, .autoselect]
  | .byteProgram => [.byteProgramHappening, .byteProgramError]
  | .byteProgramHappening => [.byteProgramHappening]
  | .byteProgramError => [.read, .byteProgramError]
  | .eraseMagic1 => [.eraseMagic2, .read]
  | .eraseMagic2 => [.eraseSelect, .read]
  | .eraseSelect => [.chipErase, .sectorErase, .read]
  | .chipErase => [.chipErase]
  | .sectorErase => [.sectorEraseSuspend, .sectorErase]
  | .sectorEraseSuspend => [.sectorErase, .sectorEraseSuspend]

/-- Each branch of a transition ends in a successor. -/
theorem FlashChip.transition_state_mem (f : FlashChip) (a : Nat) (b : Byte) :
    (f.transition a b).state ∈ f.state.successors := by
  cases hq : f.state with
  | read => rw [FlashChip.transition_read hq]; split_ifs <;> simp [SeqState.successors, hq]
  | magic1 => rw [FlashChip.transition_magic1 hq]; split_ifs <;> simp [SeqState.successors]
  | magic2 => rw [FlashChip.transition_magic2 hq]; split_ifs <;> simp [SeqState.successors]
  | eraseMagic1 => rw [FlashChip.transition_eraseMagic1 hq]; split_ifs <;> simp [SeqState.successors]
  | eraseMagic2 => rw [FlashChip.transition_eraseMagic2 hq]; split_ifs <;> simp [SeqState.successors]
  | eraseSelect => rw [FlashChip.transition_eraseSelect hq]; split_ifs <;> simp [SeqState.successors]
  | sectorErase => rw [FlashChip.transition_sectorErase hq]; split_ifs <;> simp [SeqState.successors, hq]
  | sectorEraseSuspend =>
    rw [FlashChip.transition_sectorEraseSuspend hq]; split_ifs <;> simp [SeqState.successors, hq]
  | autoselect => rw [FlashChip.transition_resetCmd (.inl hq)]; split_ifs <;> simp [SeqState.successors, hq]
  | byteProgramError => rw [FlashChip.transition_resetCmd (.inr hq)]; split_ifs <;> simp [SeqState.successors, hq]
  | byteProgramHappening => rw [FlashChip.transition_ignored (.inl hq)]; simp [SeqState.successors, hq]
  | chipErase => rw [FlashChip.transition_ignored (.inr hq)]; simp [SeqState.successors, hq]
  | byteProgram =>
    rw [FlashChip.transition_byteProgram hq, f.programCycle_eq, FlashChip.goto_state]
    split_ifs <;> simp [SeqState.successors]

/-- The state a read leaves, as a list of the three finished states (R105). -/
theorem SeqState.afterRead_eq (q : SeqState) :
    q.afterRead = if q ∈ [SeqState.byteProgramHappening, .chipErase, .sectorErase] then .read else q := by
  cases q <;> rfl

end Sys2Proof.Machine
end

section
/-! The statements of 41_flash_commands.md that the spec infers from the whole sequencer, settled. -/

namespace Sys2Proof.Proofs

open Sys2Proof.Machine

/-- Settles O20, from the branches of the transition and the demotion by a read. -/
theorem sequencerSuccessors : Obligations.SequencerSuccessors := by
  intro f a b cyc
  refine ⟨?_, f.state.afterRead_eq, rfl⟩
  have successor := f.transition_state_mem a b
  generalize f.state = q at successor ⊢
  cases q <;> exact successor

/-- Settles O21, from the four things a transition can do. -/
theorem arrayChangesOnlyByProgramOrErase : Obligations.ArrayChangesOnlyByProgramOrErase :=
  fun _ _ _ _ => FlashChip.transition_changes

end Sys2Proof.Proofs
end

section
/-! SUPPORT. Every register row as the bus access at its address (log 10), and a MegaCart after a write in IO3
(R284). -/

namespace Sys2Proof.Machine

/-! ## Register rows -/

/-- Each UltiMem row is the bus access at 0x9FF0 plus its number (R211, log 10). -/
theorem exec_umRow_eq_busAccess {p : Fin 16 × (Access → Instr)} (hp : p ∈ umRows) (acc : Access) (s : State) :
    exec (p.2 acc) s = busAccess (BitVec.ofNat 16 (0x9FF0 + p.1.val)) acc s := by
  obtain ⟨-, -, -, haddr⟩ := umAddrOf_index p.1
  rw [exec_umRow hp, umRegister_eq_busAccess, haddr]

/-- Each other row whose register is loaded and stored is the bus access at its address (R244, R313, log 10). -/
theorem exec_registerRow_eq_busAccess (addr : Addr) (acc : Access) (s : State) :
    ∀ i ∈ [Instr.feRegA addr acc, .feRegB addr acc, .vfpBankReg addr acc, .vfpCfgReg addr acc],
      exec i s = busAccess addr acc s := by
  simp only [List.forall_mem_cons]
  exact ⟨feRegister_eq_busAccess .a addr acc s, feRegister_eq_busAccess .b addr acc s,
    vfpRegister_eq_busAccess .bank addr acc s, vfpRegister_eq_busAccess .cfg addr acc s, nofun⟩

/-- Each MegaCart row is the bus write at its address (R284, log 10). -/
theorem exec_megaCartRow_eq_busWrite (addr : Addr) (b : Byte) (rmw : Bool) (s : State) :
    ∀ i ∈ [Instr.mcBankLow addr b rmw, .mcBankHigh addr b rmw, .mcControl addr b rmw],
      exec i s = busWrite addr b rmw s := by
  obtain ⟨hlow, hhigh, hcontrol⟩ := execMc_eq_busWrite addr b rmw s
  simp only [List.forall_mem_cons]
  exact ⟨hlow, hhigh, hcontrol, nofun⟩

/-! ## A MegaCart after a write in IO3 -/

/-- NVRAM after a write in IO3, under the enable as it stood (R284). -/
def MegaCart.nvramAfter (m : MegaCart) (addr : Addr) (b : Byte) : Buffer :=
  if m.nvramEnable then m.nvram.write (addr.toNat % 0x2000 % m.nvram.size) b else m.nvram

/-- The first effect of a write in IO3 is the NVRAM byte at the low 13 address bits (R284, R286). -/
theorem MegaCart.storeNvram_eq (m : MegaCart) (addr : Addr) (b : Byte) :
    m.storeNvram addr b = { m with nvram := m.nvramAfter addr b } := by
  have offset : compose addr windowMask 0 0 0 0 m.nvram.size = addr.toNat % 0x2000 % m.nvram.size := by
    rw [Buffer.size, compose_two_pow, Nat.zero_mul, Nat.add_zero, Nat.xor_zero]
  rw [MegaCart.storeNvram, MegaCart.nvramAfter, offset]
  split_ifs <;> rfl

/-- The second effect, by the number that address bits 8 and 7 make (R284). -/
theorem MegaCart.decodeControl_eq (m : MegaCart) (addr : Addr) (b : Byte) :
    m.decodeControl addr b =
      if addr.toNat / 0x80 % 4 = 3 then { m with bankLow := b, bankHigh := b, nvramEnable := !b.getLsbD 0 }
      else if addr.toNat / 0x80 % 4 = 2 then { m with bankLow := b }
      else if addr.toNat / 0x80 % 4 = 1 then { m with bankHigh := b }
      else m := by
  have bit8 : addr.getLsbD 8 = decide (addr.toNat / 0x100 % 2 = 1) := Nat.testBit_eq_decide_div_mod_eq
  have bit7 : addr.getLsbD 7 = decide (addr.toNat / 0x80 % 2 = 1) := Nat.testBit_eq_decide_div_mod_eq
  unfold MegaCart.decodeControl
  split <;> rename_i h8 h7 <;> simp only [bit8, bit7, decide_eq_true_eq, decide_eq_false_iff_not] at h8 h7
  · rw [if_neg (by omega), if_neg (by omega), if_neg (by omega)]
  · rw [if_neg (by omega), if_neg (by omega), if_pos (by omega)]
  · rw [if_neg (by omega), if_pos (by omega)]
  · rw [if_pos (by omega)]

/-- The NVRAM of a MegaCart after a write in IO3: its length, and its bytes by the enable as it stood (R284). -/
theorem MegaCart.nvramAfter_spec {m : MegaCart} (h : m.nvram.wf) (addr : Addr) (b : Byte) :
    (m.nvramAfter addr b).sizeLog = m.nvram.sizeLog ∧ (m.nvramEnable = false → m.nvramAfter addr b = m.nvram) ∧
    (m.nvramEnable = true → ∀ o, (m.nvramAfter addr b).byteAt o =
      if o = addr.toNat % 0x2000 % m.nvram.size then b else m.nvram.byteAt o) := by
  unfold MegaCart.nvramAfter
  cases m.nvramEnable with
  | false => exact ⟨rfl, fun _ => rfl, nofun⟩
  | true => exact ⟨rfl, nofun, fun _ o => Buffer.byteAt_write m.nvram _ o b h⟩

/-- With a MegaCart attached a bus write in IO3 is the control write there, and its register decode does no more
(R284, R288). -/
theorem busWrite_megaCart_io3 {s : State} {m : MegaCart} {addr : Addr} (hs : s.ctrl = .megaCart m)
    (hlo : 0x9C00 ≤ addr.toNat) (hhi : addr.toNat ≤ 0x9FFF) (b : Byte) (rmw : Bool) :
    busWrite addr b rmw s =
      .next (s.answer none (.megaCart ({ m with nvram := m.nvramAfter addr b }.decodeControl addr b))) := by
  have io3 : windowOf addr = some .io3 := (windowOf_eq_some_iff addr .io3).2 ⟨hlo, hhi⟩
  have registers : (s.ctrl.writeHook s.ctrl.registerWindow addr b).configWrite? addr b =
      some (.megaCart (m.controlWrite addr b)) := by
    rw [hs]
    exact if_pos io3
  rw [← execCConfigWrite_eq_busWrite, ← m.storeNvram_eq]
  exact exec_cConfigWrite_register registers rmw

end Sys2Proof.Machine
end

section
/-! The statements on register rows as bus accesses and on the MegaCart's control writes, settled. -/

namespace Sys2Proof.Proofs

open Sys2Proof.Machine

/-- Settles O41: every register row is the bus access at its address. -/
theorem registerRowsAreBusAccesses : Obligations.RegisterRowsAreBusAccesses := by
  intro s
  refine ⟨fun p hp => ⟨fun busLast cyc => exec_umRow_eq_busAccess hp (.load busLast cyc) s,
    fun b rmw => exec_umRow_eq_busAccess hp (.store b rmw) s⟩, fun addr busLast b cyc rmw => ⟨?loads, ?stores⟩⟩
  case loads => exact exec_registerRow_eq_busAccess addr (.load busLast cyc) s
  case stores =>
    exact List.forall_mem_append.2
      ⟨exec_registerRow_eq_busAccess addr (.store b rmw) s, exec_megaCartRow_eq_busWrite addr b rmw s⟩

/-- Settles O51: a row or a C.write in IO3 is the same bus write, whose NVRAM byte and decode are the MegaCart's. -/
theorem megaCartControlRows : Obligations.MegaCartControlRows := by
  intro s m addr b rmw hinv hs hlo hhi
  have hwf : m.nvram.wf := by
    rw [State.Inv, hs] at hinv
    exact hinv.2.1
  obtain ⟨hsize, hdisabled, henabled⟩ := MegaCart.nvramAfter_spec hwf addr b
  have write := busWrite_megaCart_io3 hs hlo hhi b rmw
  rw [MegaCart.decodeControl_eq] at write
  obtain ⟨hlow, hhigh, hcontrol⟩ := execMc_eq_busWrite addr b rmw s
  refine ⟨m.nvramAfter addr b, hsize, hdisabled, henabled, fun h => ?low, fun h => ?high, fun h => ?both,
    fun h => ?neither⟩ <;> simp only [h] at write
  case low => exact hlow.trans write
  case high => exact hhigh.trans write
  case both =>
    simp only [List.forall_mem_cons]
    exact ⟨hcontrol.trans write, hlow.trans write, hhigh.trans write, nofun⟩
  case neither => exact write

end Sys2Proof.Proofs
end
